-- ==== Sys2Proof/Word.lean ====
section
/-! DEFINITION. The widths the spec gives to words: pattern bytes, frame words, command words (00_scope.md R5). -/

namespace Sys2Proof

/-- A pattern byte or an 8-bit character code (40_rom.md R80, R81). -/
abbrev Byte := BitVec 8

/-- A 16-bit frame word or shift-register image (42_driver.md R123; 60_exceptions.md R174). -/
abbrev FrameWord := BitVec 16

/-- An 80-bit command word, `cmd[79:0]` (30_encoding.md R60). -/
abbrev CmdWord := BitVec 80

end Sys2Proof
end

