-- ==== Sys2Proof/Syntax.lean ====
section
/-! DEFINITION. The commands: one constructor per row of spec/opcode_table.json (30_encoding.md R61). -/

namespace Sys2Proof

/-- A command with its operands, every one an unsigned number or a character code (30_encoding.md R66). -/
inductive Instr where
  /-- `NOP` (30_encoding.md R64). -/
  | nop
  /-- `LOAD` (30_encoding.md R62): the point-valid bit PV, the point index PI, the character codes CH_0 to CH_7. -/
  | load (pv : Bool) (pi : Nat) (chars : Vector Byte 8)
  /-- `PTSET` (30_encoding.md R63): the digit index IDX. -/
  | ptset (idx : Nat)
  /-- `PTCLR` (30_encoding.md R63): the digit index IDX. -/
  | ptclr (idx : Nat)
  /-- `SHOW` (30_encoding.md R64). -/
  | showOnce
  /-- `SHOWFOR` (30_encoding.md R65): DURATION in time units. -/
  | showFor (duration : Nat)
  deriving DecidableEq, Repr

/-- The mnemonic of a command in the opcode map of 30_encoding.md R61. -/
def Instr.mnemonic : Instr → String
  | .nop => "NOP"
  | .load _ _ _ => "LOAD"
  | .ptset _ => "PTSET"
  | .ptclr _ => "PTCLR"
  | .showOnce => "SHOW"
  | .showFor _ => "SHOWFOR"

end Sys2Proof
end

