-- ==== Sys2Proof/WellFormed.lean ====
section
/-! DEFINITION. When a command is well formed: each operand fits the field that 30_encoding.md R62, R63 and R65 give it. -/

namespace Sys2Proof

/-- Every operand fits its field: PI has 3 bits (R62), IDX has 8 (R63), DURATION has 32 (R65).
PV and the character codes have their widths by type. -/
def Instr.wf : Instr → Bool
  | .nop => true
  | .load _ pi _ => decide (pi < 2 ^ 3)
  | .ptset idx => decide (idx < 2 ^ 8)
  | .ptclr idx => decide (idx < 2 ^ 8)
  | .showOnce => true
  | .showFor duration => decide (duration < 2 ^ 32)

end Sys2Proof
end

