-- ==== Sys2Proof/Decode.lean ====
section
/-! DEFINITION. Reading a command word (30_encoding.md R60 to R68), and the encoder from the same fields. -/

namespace Sys2Proof

/-- Why a command word is reserved (30_encoding.md R67). -/
inductive DecodeError where
  /-- OP is 0x06 to 0xFF: no row of R61 has it. -/
  | reservedOpcode
  /-- OP is that of a row, and a bit the row requires to be 0 is 1. -/
  | nonzeroReservedBits
  deriving DecidableEq, Repr

/-- The field `OP`, `cmd[79:72]` (R60). -/
def opField (w : CmdWord) : BitVec 8 := w.extractLsb' 72 8

/-- The field `AUX`, `cmd[71:64]` (R60). -/
def auxField (w : CmdWord) : BitVec 8 := w.extractLsb' 64 8

/-- The field `PAY`, `cmd[63:0]` (R60). -/
def payField (w : CmdWord) : BitVec 64 := w.extractLsb' 0 64

/-- `CH_i` is `PAY[8i+7:8i]` (R62; 20_memory.md R44). -/
def charsOf (pay : BitVec 64) : Vector Byte 8 :=
  Vector.ofFn fun i => pay.extractLsb' (8 * i.val) 8

/-- Decoding a command word: total, one meaning at most (R68), every other word reserved (R67). -/
def decode (w : CmdWord) : Except DecodeError Instr :=
  if opField w = 0x00#8 then
    if auxField w = 0#8 ∧ payField w = 0#64 then .ok .nop else .error .nonzeroReservedBits
  else if opField w = 0x01#8 then
    if (auxField w).extractLsb' 3 4 = 0#4 then
      .ok (.load ((auxField w).getLsbD 7) ((auxField w).extractLsb' 0 3).toNat (charsOf (payField w)))
    else .error .nonzeroReservedBits
  else if opField w = 0x02#8 then
    if payField w = 0#64 then .ok (.ptset (auxField w).toNat) else .error .nonzeroReservedBits
  else if opField w = 0x03#8 then
    if payField w = 0#64 then .ok (.ptclr (auxField w).toNat) else .error .nonzeroReservedBits
  else if opField w = 0x04#8 then
    if auxField w = 0#8 ∧ payField w = 0#64 then .ok .showOnce else .error .nonzeroReservedBits
  else if opField w = 0x05#8 then
    if auxField w = 0#8 ∧ (payField w).extractLsb' 32 32 = 0#32 then
      .ok (.showFor ((payField w).extractLsb' 0 32).toNat)
    else .error .nonzeroReservedBits
  else .error .reservedOpcode

/-- The instruction the decoder reads from the `nbits` low bits of `w`, bit 0 of `w` being `cmd[0]`.
A number that does not fit the 80 bits of `cmd` is no command word. -/
def decodeTableWord (nbits w : Nat) : Option Instr :=
  if w % 2 ^ nbits < 2 ^ 80 then
    match decode (BitVec.ofNat 80 (w % 2 ^ nbits)) with
    | .ok i => some i
    | .error _ => none
  else none

/-- A row of the opcode map of R61. `pattern` is the column the spec calls match. -/
structure OpcodeRow where
  mnemonic : String
  mask : CmdWord
  pattern : CmdWord
  deriving DecidableEq, Repr

/-- "a word w encodes the row's command exactly when `(w & mask) = match`" (R61). -/
def OpcodeRow.admits (r : OpcodeRow) (w : CmdWord) : Bool := w &&& r.mask == r.pattern

/-- The opcode map of R61, row by row. The decoder above is written from the field rules R62 to R65; that the two
agree is a claim. -/
def opcodeTable : List OpcodeRow :=
  [ ⟨"NOP", 0xFFFFFFFFFFFFFFFFFFFF#80, 0x00000000000000000000#80⟩,
    ⟨"LOAD", 0xFF780000000000000000#80, 0x01000000000000000000#80⟩,
    ⟨"PTSET", 0xFF00FFFFFFFFFFFFFFFF#80, 0x02000000000000000000#80⟩,
    ⟨"PTCLR", 0xFF00FFFFFFFFFFFFFFFF#80, 0x03000000000000000000#80⟩,
    ⟨"SHOW", 0xFFFFFFFFFFFFFFFFFFFF#80, 0x04000000000000000000#80⟩,
    ⟨"SHOWFOR", 0xFFFFFFFFFFFF00000000#80, 0x05000000000000000000#80⟩ ]

/-- A word is reserved when no row of the opcode map admits it (R67). -/
def isReserved (w : CmdWord) : Bool := opcodeTable.all fun r => !r.admits w

/-- A command word from its three fields (R60). -/
def wordOf (op aux : BitVec 8) (pay : BitVec 64) : CmdWord := op ++ aux ++ pay

/-- The payload of LOAD: CH_7 in the most significant byte, CH_0 in the least (R62). -/
def payOf (chars : Vector Byte 8) : BitVec 64 :=
  chars[7] ++ chars[6] ++ chars[5] ++ chars[4] ++ chars[3] ++ chars[2] ++ chars[1] ++ chars[0]

/-- The field AUX of LOAD: PV, four zero bits, PI (R62). -/
def loadAux (pv : Bool) (pi : Nat) : BitVec 8 := BitVec.ofBool pv ++ 0#4 ++ BitVec.ofNat 3 pi

/-- The command word of a well-formed instruction (R61 to R65). -/
def encode : Instr → CmdWord
  | .nop => wordOf 0x00#8 0#8 0#64
  | .load pv pi chars => wordOf 0x01#8 (loadAux pv pi) (payOf chars)
  | .ptset idx => wordOf 0x02#8 (BitVec.ofNat 8 idx) 0#64
  | .ptclr idx => wordOf 0x03#8 (BitVec.ofNat 8 idx) 0#64
  | .showOnce => wordOf 0x04#8 0#8 0#64
  | .showFor duration => wordOf 0x05#8 0#8 (0#32 ++ BitVec.ofNat 32 duration)

end Sys2Proof
end

