-- ==== Sys2Proof/Config.lean ====
section
/-! DEFINITION. The construction parameters of 00_scope.md R4, and the free values the spec leaves open.
What is computed from the parameters (C, P, the blank pattern) stands in Machine/Params.lean and Machine/Rom.lean. -/

namespace Sys2Proof

/-- `POLARITY` (00_scope.md R3): common anode or common cathode. -/
inductive Polarity where
  | ca
  | cc
  deriving DecidableEq, Repr

/-- `BIT_ORDER` (00_scope.md R4): the serial order of the bits of each byte (42_driver.md R125). -/
inductive BitOrder where
  | msbFirst
  | lsbFirst
  deriving DecidableEq, Repr

/-- `FIRST_BYTE` (00_scope.md R4): the byte of a frame that is sent first (42_driver.md R123). -/
inductive FirstByte where
  | index
  | segment
  deriving DecidableEq, Repr

/-- `FB_RESET_POLICY` (00_scope.md R4): what reset puts into the frame buffer (10_state.md R37). -/
inductive FbResetPolicy where
  | blank
  | any
  deriving DecidableEq, Repr

/-- The complete parameter set of the block, one field per row of the table of 00_scope.md R4.
No step changes it. `GLYPH` is held as its table of 256 entries. -/
structure Config where
  digitCountReq : Nat
  polarity : Polarity
  bitOrder : BitOrder
  firstByte : FirstByte
  cyclesPerUnit : Nat
  dwellCycles : Nat
  glyph : Vector Byte 256
  fbResetPolicy : FbResetPolicy
  deriving DecidableEq, Repr

/-- Free value (log 6): entry `i` of the frame buffer that draw number `n` gives under
`FB_RESET_POLICY = ANY` (10_state.md R37: an arbitrary 8-bit value per entry, a draw at reset). -/
opaque Config.freeEntry (n i : Nat) : Byte

/-- Free value (log 5): the chain's stages at power-up (60_exceptions.md R176). -/
opaque Config.powerUpStage : FrameWord

/-- Free value (log 5): the chain's output latches at power-up (60_exceptions.md R176). -/
opaque Config.powerUpOut : FrameWord

end Sys2Proof
end

