-- ==== Sys2Proof/Machine/Glyph.lean ====
section
/-! DEFINITION. The characters and shapes of the segment encoding ROM: bit layout, classes, default GLYPH table
(40_rom.md R80 to R82), and what the spec requires of any GLYPH. -/

namespace Sys2Proof.Machine

/-- The segments of a digit (00_scope.md R8). -/
inductive Segment where
  | a
  | b
  | c
  | d
  | e
  | f
  | g
  | dp
  deriving DecidableEq, Repr

/-- The bit of a pattern byte that holds a segment (40_rom.md R80). -/
def Segment.bitPos : Segment → Nat
  | .a => 7
  | .b => 6
  | .c => 5
  | .d => 4
  | .e => 3
  | .f => 2
  | .g => 1
  | .dp => 0

/-- The logical pattern with exactly the listed segments on (40_rom.md R80). -/
def patternOf (on : List Segment) : Byte :=
  on.foldl (fun p x => p ||| (1#8 <<< x.bitPos)) 0#8

/-- The class of a character code (40_rom.md R81). -/
inductive CharClass where
  | digit (n : Nat)
  | letter (k : Nat)
  | minus
  | other
  deriving DecidableEq, Repr

/-- Every 8-bit code falls in exactly one class (40_rom.md R81). -/
def charClass (ch : Byte) : CharClass :=
  if 0x30 ≤ ch.toNat ∧ ch.toNat ≤ 0x39 then .digit (ch.toNat - 0x30)
  else if 0x41 ≤ ch.toNat ∧ ch.toNat ≤ 0x5A then .letter (ch.toNat - 0x41)
  else if 0x61 ≤ ch.toNat ∧ ch.toNat ≤ 0x7A then .letter (ch.toNat - 0x61)
  else if ch.toNat = 0x2D then .minus
  else .other

/-- The digit rows of the default table (40_rom.md R82). -/
def digitGlyph : Nat → Byte
  | 0 => 0xFC#8
  | 1 => 0x60#8
  | 2 => 0xDA#8
  | 3 => 0xF2#8
  | 4 => 0x66#8
  | 5 => 0xB6#8
  | 6 => 0xBE#8
  | 7 => 0xE0#8
  | 8 => 0xFE#8
  | 9 => 0xF6#8
  | _ => 0x00#8

/-- The letter rows of the default table, A to Z (40_rom.md R82). -/
def letterGlyph : Nat → Byte
  | 0 => 0xEE#8
  | 1 => 0x3E#8
  | 2 => 0x9C#8
  | 3 => 0x7A#8
  | 4 => 0x9E#8
  | 5 => 0x8E#8
  | 6 => 0xBC#8
  | 7 => 0x6E#8
  | 8 => 0x0C#8
  | 9 => 0x78#8
  | 10 => 0xAE#8
  | 11 => 0x1C#8
  | 12 => 0xEC#8
  | 13 => 0x2A#8
  | 14 => 0x3A#8
  | 15 => 0xCE#8
  | 16 => 0xE6#8
  | 17 => 0x0A#8
  | 18 => 0xB6#8
  | 19 => 0x1E#8
  | 20 => 0x7C#8
  | 21 => 0x38#8
  | 22 => 0x7E#8
  | 23 => 0x6E#8
  | 24 => 0x76#8
  | 25 => 0xDA#8
  | _ => 0x00#8

/-- The default logical pattern of a code (40_rom.md R82). -/
def defaultGlyph (ch : Byte) : Byte :=
  match charClass ch with
  | .digit n => digitGlyph n
  | .letter k => letterGlyph k
  | .minus => 0x02#8
  | .other => 0x00#8

/-- The default GLYPH as the table that a configuration holds (40_rom.md R82). -/
def defaultGlyphTable : Vector Byte 256 :=
  Vector.ofFn fun i => defaultGlyph (BitVec.ofNat 8 i.val)

end Sys2Proof.Machine

namespace Sys2Proof

/-- `GLYPH(ch)` of a configuration (00_scope.md R4). -/
def Config.glyphOf (cfg : Config) (ch : Byte) : Byte := cfg.glyph[ch.toNat]'ch.isLt

/-- "bit 0 = 0 in every entry" (00_scope.md R4; 40_rom.md R82): no glyph lights the decimal point. -/
def Config.glyphPointFree (cfg : Config) : Bool :=
  (List.range 256).all fun n => !(cfg.glyphOf (BitVec.ofNat 8 n)).getLsbD 0

/-- A code whose glyph the classes fix: letters give one value in both cases (40_rom.md R82), and every code of no
class gives the blank pattern (40_rom.md R81, R85). -/
def Config.glyphByClass (cfg : Config) : Bool :=
  (List.range 26).all (fun k =>
      cfg.glyphOf (BitVec.ofNat 8 (0x41 + k)) == cfg.glyphOf (BitVec.ofNat 8 (0x61 + k))) &&
    (List.range 256).all (fun n =>
      Machine.charClass (BitVec.ofNat 8 n) != .other || cfg.glyphOf (BitVec.ofNat 8 n) == 0x00#8)

end Sys2Proof
end

