-- ==== Sys2Proof/Machine/Params.lean ====
section
/-! DEFINITION. What follows from the construction parameters: C, P, the derived lengths, the legal parameter range
(00_scope.md R2, R4; 42_driver.md R131, R132). -/

namespace Sys2Proof

/-- The effective digit count `C = min(max(DIGIT_COUNT_REQ, 1), 8)` (00_scope.md R2). -/
def Config.digitCount (cfg : Config) : Nat := min (max cfg.digitCountReq 1) 8

/-- The length of a digit frame, LATCH_LO to the last DWELL cycle: 34 + DW (42_driver.md R131). -/
def Config.frameCycles (cfg : Config) : Nat := 34 + cfg.dwellCycles

/-- The pass period `P = 1 + C × (34 + DW)` (42_driver.md R131). -/
def Config.passPeriod (cfg : Config) : Nat := 1 + cfg.digitCount * cfg.frameCycles

/-- The busy cycles of a SHOW: 34 + C × (34 + DW) (42_driver.md R131; 70_reset_and_hazards.md R197). -/
def Config.showCycles (cfg : Config) : Nat := 34 + cfg.digitCount * cfg.frameCycles

/-- The number of passes of a SHOWFOR of `dur` cycles: 0 if dur = 0, else (dur − 1) / P (42_driver.md R132). -/
def Config.passCount (cfg : Config) (dur : Nat) : Nat :=
  if dur = 0 then 0 else (dur - 1) / cfg.passPeriod

/-- The parameter values 00_scope.md R4 and 40_rom.md R82 allow: 1 ≤ U ≤ 2^32 − 1, DW ≥ 1, a lawful GLYPH.
The machine itself never asks (log 10). -/
def Config.wf (cfg : Config) : Bool :=
  decide (1 ≤ cfg.cyclesPerUnit) && decide (cfg.cyclesPerUnit < 2 ^ 32) && decide (1 ≤ cfg.dwellCycles) &&
    cfg.glyphPointFree && cfg.glyphByClass

/-- The configuration `State.reset` has (log 1, DESIGN CHOICE): the defaults of 00_scope.md R4 where it gives one
(MSB_FIRST, INDEX, DW = U, the default GLYPH, BLANK), and for the rows it leaves to the integrator 8 digits, common
cathode and U = 1. -/
def Config.reference : Config :=
  { digitCountReq := 8
    polarity := .cc
    bitOrder := .msbFirst
    firstByte := .index
    cyclesPerUnit := 1
    dwellCycles := 1
    glyph := Machine.defaultGlyphTable
    fbResetPolicy := .blank }

end Sys2Proof
end

