-- ==== Sys2Proof/Machine/Rom.lean ====
section
/-! DEFINITION. The segment encoding ROM read, polarity and the point bit (40_rom.md R83 to R87), and the frame buffer
that a reset leaves (10_state.md R37). -/

namespace Sys2Proof

/-- `WIRE(p)`: the logical pattern itself under CC, its complement under CA (40_rom.md R83). -/
def Config.wire (cfg : Config) (p : Byte) : Byte :=
  match cfg.polarity with
  | .cc => p
  | .ca => ~~~p

/-- `ROM(ch) = WIRE(GLYPH(ch))` (40_rom.md R84). -/
def Config.rom (cfg : Config) (ch : Byte) : Byte := cfg.wire (cfg.glyphOf ch)

/-- `BLANK = WIRE(0x00)` (40_rom.md R85). -/
def Config.blank (cfg : Config) : Byte := cfg.wire 0x00#8

/-- `PT_ON(b)`: the point bit at its on level, 1 under CC and 0 under CA (40_rom.md R86). -/
def Config.ptOn (cfg : Config) (b : Byte) : Byte :=
  match cfg.polarity with
  | .cc => b ||| 0x01#8
  | .ca => b &&& 0xFE#8

/-- `PT_OFF(b)`: the point bit at its off level, 0 under CC and 1 under CA (40_rom.md R87). -/
def Config.ptOff (cfg : Config) (b : Byte) : Byte :=
  match cfg.polarity with
  | .cc => b &&& 0xFE#8
  | .ca => b ||| 0x01#8

/-- The frame buffer after a reset that makes draw number `n` (10_state.md R37). -/
def Config.resetFb (cfg : Config) (n : Nat) : Vector Byte 8 :=
  match cfg.fbResetPolicy with
  | .blank => Vector.ofFn fun _ => cfg.blank
  | .any => Vector.ofFn fun i => Config.freeEntry n i.val

end Sys2Proof
end

