-- ==== Sys2Proof/Machine/State.lean ====
section
/-! DEFINITION. The state of the block, of the chain it drives and of its input ports, as plain data (10_state.md R20 to
R38; 60_exceptions.md R174 to R176), and the state after reset. -/

namespace Sys2Proof.Machine

/-- The driver's state register `st` (10_state.md R26). -/
inductive DriverState where
  | idle
  | check
  | latchLo
  | shiftA
  | shiftB
  | latchHi
  | dwell
  deriving DecidableEq, Repr

/-- The driver's `mode` (10_state.md R27). -/
inductive Mode where
  | none
  | once
  | timed
  deriving DecidableEq, Repr

/-- The values of the three input ports in one clock cycle (10_state.md R20). -/
structure PortInput where
  rst : Bool
  cmdValid : Bool
  cmd : CmdWord
  deriving DecidableEq, Repr

/-- The state: every row of 10_state.md R24 to R35, the chain of 60_exceptions.md R174 and R175, the parameters of
00_scope.md R4, and the input ports cycle by cycle. `draw` is the model's own counter (log 6). -/
structure State where
  cfg : Config
  fb : Vector Byte 8
  st : DriverState
  mode : Mode
  clr : Bool
  dig : BitVec 3
  bit : BitVec 4
  cnt : Nat
  elapsed : Nat
  dur : Nat
  sreg : FrameWord
  latchO : Bool
  sclkO : Bool
  sdataO : Bool
  stage : FrameWord
  out : FrameWord
  inputs : List PortInput
  draw : Nat
  deriving DecidableEq, Repr

/-- The machine never faults: "no failure path exists in this component" (60_exceptions.md R170). No one raises a
fault, so the type has no constructor. -/
inductive Fault where
  deriving DecidableEq, Repr

/-- The refusals. -/
inductive Refusal where
  /-- Raised by an arm of `exec` that has no meaning yet; safe. No arm of this model raises it. -/
  | notModelled (mnemonic : String)
  /-- `refused(RESERVED_ENCODING)`: raised by `step` when it accepts a reserved command word (60_exceptions.md R171;
  30_encoding.md R67); safe, as no claim about the run can then be proved. -/
  | reservedEncoding
  deriving DecidableEq, Repr

/-- The state after construction with parameters `cfg`, that is power-up and one reset cycle (10_state.md R37;
70_reset_and_hazards.md R190; for the chain 60_exceptions.md R176), with input values still to come. -/
def State.resetWith (cfg : Config) (inputs : List PortInput) : State :=
  { cfg := cfg
    fb := cfg.resetFb 0
    st := .idle
    mode := .none
    clr := false
    dig := 0#3
    bit := 0#4
    cnt := 0
    elapsed := 0
    dur := 0
    sreg := 0x0000#16
    latchO := false
    sclkO := false
    sdataO := false
    stage := Config.powerUpStage
    out := Config.powerUpOut
    inputs := inputs
    draw := 1 }

/-- The machine right after reset: the values of 10_state.md R37, the reference configuration (log 1), nothing on the
input ports (log 2). -/
def State.reset : State := State.resetWith Config.reference []

end Sys2Proof.Machine
end

