-- ==== Sys2Proof/Machine/Flags.lean ====
section
/-! DEFINITION. The only status the block has (10_state.md R23): busy and cmd_ready (R36). There are no condition codes. -/

namespace Sys2Proof.Machine

/-- The ports without a reset and without a command. -/
def PortInput.quiet : PortInput := { rst := false, cmdValid := false, cmd := 0#80 }

/-- The ports on which the host presents a command word (30_encoding.md R60). -/
def PortInput.command (w : CmdWord) : PortInput := { rst := false, cmdValid := true, cmd := w }

/-- The ports in a reset cycle with no command. -/
def PortInput.reset : PortInput := { rst := true, cmdValid := false, cmd := 0#80 }

/-- The input ports in the present cycle (10_state.md R20); quiet when nothing is listed (log 2). -/
def State.port (s : State) : PortInput := s.inputs.headD PortInput.quiet

/-- The input ports `k` cycles after the present one. -/
def State.portAt (s : State) (k : Nat) : PortInput := (s.inputs.drop k).headD PortInput.quiet

/-- `busy = (st ≠ IDLE)` (10_state.md R36). -/
def State.busy (s : State) : Bool := s.st != .idle

/-- `cmd_ready = (st = IDLE) ∧ ¬rst` (10_state.md R36). -/
def State.cmdReady (s : State) : Bool := s.st == .idle && !s.port.rst

/-- "A command is accepted exactly in a cycle where `cmd_valid = 1` and `cmd_ready = 1`" (41_framebuffer.md R100). -/
def State.accepts (s : State) : Bool := s.port.cmdValid && s.cmdReady

end Sys2Proof.Machine
end

