-- ==== Sys2Proof/Machine/Operands.lean ====
section
/-! DEFINITION. What the commands' operands stand for: the point option and the characters of LOAD, the bounds check of
PTSET and PTCLR, the scaling of DURATION (30_encoding.md R62, R63, R65, R66). -/

namespace Sys2Proof.Machine

/-- PV and PI are an optional index: position `i` is the one LOAD gives a point (30_encoding.md R62). -/
def pointAt (pv : Bool) (pi i : Nat) : Bool := pv && pi == i

/-- The entry LOAD writes at position `i` from the code `ch` (41_framebuffer.md R102). -/
def loadEntry (cfg : Config) (pv : Bool) (pi i : Nat) (ch : Byte) : Byte :=
  if pointAt pv pi i then cfg.ptOn (cfg.rom ch) else cfg.rom ch

/-- "bounds-checked against `[0, digitCount-1]`" (41_framebuffer.md R103, R104; 20_memory.md R41). -/
def inRange (cfg : Config) (idx : Nat) : Bool := decide (idx < cfg.digitCount)

/-- `DURATION × U`, exact (42_driver.md R121). -/
def scaledDuration (cfg : Config) (duration : Nat) : Nat := duration * cfg.cyclesPerUnit

end Sys2Proof.Machine
end

