-- ==== Sys2Proof/Machine/Frame.lean ====
section
/-! DEFINITION. Frames: index bytes, frame words, serial bit order (42_driver.md R122 to R125). -/

namespace Sys2Proof.Machine

/-- `IDX(i)`: one-hot, `1 << i` under CA and `~(1 << i)` under CC (42_driver.md R122). -/
def indexByte (cfg : Config) (i : Nat) : Byte :=
  match cfg.polarity with
  | .ca => 1#8 <<< i
  | .cc => ~~~(1#8 <<< i)

/-- The frame word of an index byte and a pattern byte, the byte sent first in bits 15 to 8 (42_driver.md R123). -/
def frameWord (cfg : Config) (index pattern : Byte) : FrameWord :=
  match cfg.firstByte with
  | .index => index ++ pattern
  | .segment => pattern ++ index

/-- `SBIT(w, k)`: the bit of `w` that is sent `k`-th (42_driver.md R125). -/
def sbit (cfg : Config) (w : FrameWord) (k : Nat) : Bool :=
  let byte : Byte := if k < 8 then w.extractLsb' 8 8 else w.extractLsb' 0 8
  let j := k % 8
  match cfg.bitOrder with
  | .msbFirst => byte.getLsbD (7 - j)
  | .lsbFirst => byte.getLsbD j

/-- `FB[dig]`, an entry of the frame buffer (10_state.md R24). -/
def State.fbAt (s : State) (i : BitVec 3) : Byte := s.fb[i.toNat]'i.isLt

/-- `FW(dig)` of a state (42_driver.md R123). -/
def State.digitWord (s : State) (i : BitVec 3) : FrameWord :=
  frameWord s.cfg (indexByte s.cfg i.toNat) (s.fbAt i)

/-- The frame word that LATCH_LO loads: 0x0000 for the clear frame, else FW(dig) (42_driver.md R124, R130). -/
def State.nextWord (s : State) : FrameWord := if s.clr then 0x0000#16 else s.digitWord s.dig

end Sys2Proof.Machine
end

