-- ==== Sys2Proof/Machine/Ops.lean ====
section
/-! DEFINITION. The shared operations on the state: frame-buffer writes, pin writes with the chain they clock, starting
and ending a show, reset. The block has no exception to take and none to return from (60_exceptions.md R170). -/

namespace Sys2Proof.Machine

/-- The clock edge moves the input ports on to the next cycle. -/
def State.nextCycle (s : State) : State := { s with inputs := s.inputs.tail }

/-- `FB[i] <- f(i, FB[i])` for every used position `i < C`, all at one edge; the entries from C on keep their values
(20_memory.md R47; 10_state.md R25). -/
def State.mapFb (s : State) (f : Fin 8 → Byte → Byte) : State :=
  { s with fb := Vector.ofFn fun i => if i.val < s.cfg.digitCount then f i s.fb[i] else s.fb[i] }

/-- An atomic read-modify-write of one entry; no effect when the index is out of `0..C-1` (20_memory.md R41, R48). -/
def State.modifyEntry (s : State) (idx : Nat) (f : Byte → Byte) : State :=
  if inRange s.cfg idx then s.mapFb (fun i b => if i.val = idx then f b else b) else s

/-- One shift of the chain: every stage takes the one before it, stage 0 takes `sdata_o` (60_exceptions.md R174). -/
def shiftIn (stage : FrameWord) (sdata : Bool) : FrameWord := stage.shiftConcat sdata

/-- The pins take new values, and the chain sees the edges: a rise of `sclk_o` shifts it, a rise of `latch_o` transfers
its stages to its outputs (10_state.md R35; 60_exceptions.md R174, R175; log 9). -/
def State.drivePins (s : State) (latch sclk sdata : Bool) : State :=
  { s with
    latchO := latch
    sclkO := sclk
    sdataO := sdata
    stage := if !s.sclkO && sclk then shiftIn s.stage sdata else s.stage
    out := if !s.latchO && latch then s.stage else s.out }

/-- Reset: the values of 10_state.md R37, whatever the state; the pins fall or stay low, so the chain is neither shifted
nor latched (70_reset_and_hazards.md R190, R191; 10_state.md R38). -/
def State.applyReset (s : State) : State :=
  { s.drivePins false false false with
    fb := s.cfg.resetFb s.draw
    st := .idle
    mode := .none
    clr := false
    dig := 0#3
    bit := 0#4
    cnt := 0
    elapsed := 0
    dur := 0
    sreg := 0x0000#16
    draw := s.draw + 1 }

/-- The end of a show: back to IDLE (42_driver.md R130, LATCH_HI with `clr = 1`). -/
def State.endShow (s : State) : State :=
  { s with clr := false, mode := .none, dig := 0#3, bit := 0#4, st := .idle }

end Sys2Proof.Machine
end

