-- ==== Sys2Proof/Machine/Driver.lean ====
section
/-! DEFINITION. The multiplexed driver: the commands SHOW and SHOWFOR and the step of the driver's state machine
(42_driver.md R120, R121, R126 to R130). -/

namespace Sys2Proof.Machine

/-- `SHOW` (42_driver.md R120). -/
def execShow (s : State) : Host.Outcome State Fault Refusal :=
  .next { s with mode := .once, clr := false, dig := 0#3, st := .latchLo }

/-- `SHOWFOR` (42_driver.md R121). -/
def execShowFor (duration : Nat) (s : State) : Host.Outcome State Fault Refusal :=
  .next { s with mode := .timed, dur := scaledDuration s.cfg duration, elapsed := 0, clr := false, dig := 0#3, st := .check }

/-- CHECK: a pass starts exactly when `elapsed + P < dur` (42_driver.md R127). -/
def State.driveCheck (s : State) : State :=
  if s.elapsed + s.cfg.passPeriod < s.dur then { s with dig := 0#3, clr := false, st := .latchLo }
  else { s with clr := true, st := .latchLo }

/-- LATCH_LO: the latch pin falls and the frame word is loaded (42_driver.md R130). -/
def State.driveLatchLo (s : State) : State :=
  { s.drivePins false false s.sdataO with sreg := s.nextWord, bit := 0#4, st := .shiftA }

/-- SHIFT_A: the bit goes to the data pin (42_driver.md R130). -/
def State.driveShiftA (s : State) : State :=
  { s.drivePins s.latchO false (sbit s.cfg s.sreg s.bit.toNat) with st := .shiftB }

/-- SHIFT_B: the shift clock rises (42_driver.md R130). -/
def State.driveShiftB (s : State) : State :=
  if s.bit = 15#4 then { s.drivePins s.latchO true s.sdataO with st := .latchHi }
  else { s.drivePins s.latchO true s.sdataO with bit := s.bit + 1#4, st := .shiftA }

/-- LATCH_HI: the latch pin rises; the clear frame ends the show (42_driver.md R130). -/
def State.driveLatchHi (s : State) : State :=
  if s.clr then (s.drivePins true false s.sdataO).endShow
  else { s.drivePins true false s.sdataO with cnt := s.cfg.dwellCycles, st := .dwell }

/-- DWELL: hold the digit, then the next digit, the clear frame or the next CHECK (42_driver.md R130, R128). -/
def State.driveDwell (s : State) : State :=
  if 1 < s.cnt then { s with cnt := s.cnt - 1 }
  else if s.dig.toNat + 1 < s.cfg.digitCount then { s with cnt := 0, dig := s.dig + 1#3, st := .latchLo }
  else if s.mode = .once then { s with cnt := 0, clr := true, st := .latchLo }
  else { s with cnt := 0, st := .check }

/-- The case of 42_driver.md R130 for the present `st`; IDLE has none. -/
def State.driveCase (s : State) : State :=
  match s.st with
  | .idle => s
  | .check => s.driveCheck
  | .latchLo => s.driveLatchLo
  | .shiftA => s.driveShiftA
  | .shiftB => s.driveShiftB
  | .latchHi => s.driveLatchHi
  | .dwell => s.driveDwell

/-- `elapsed` in the next cycle: one more in mode TIMED, whatever the case does (42_driver.md R126). -/
def State.nextElapsed (s : State) : Nat := if s.mode = .timed then s.elapsed + 1 else s.elapsed

/-- One driver step (42_driver.md R130). -/
def State.driverStep (s : State) : State := { s.driveCase with elapsed := s.nextElapsed }

end Sys2Proof.Machine
end

