-- ==== Sys2Proof/Machine/FrameBuffer.lean ====
section
/-! DEFINITION. The commands that finish in their accept cycle: NOP, LOAD, PTSET, PTCLR (41_framebuffer.md R101 to R104). -/

namespace Sys2Proof.Machine

/-- `NOP`: no state changes (41_framebuffer.md R101). -/
def execNop (s : State) : Host.Outcome State Fault Refusal := .next s

/-- `LOAD`: the characters of positions 0 to C − 1 replace the frame buffer (41_framebuffer.md R102). -/
def execLoad (pv : Bool) (pi : Nat) (chars : Vector Byte 8) (s : State) : Host.Outcome State Fault Refusal :=
  .next (s.mapFb fun i _ => loadEntry s.cfg pv pi i.val chars[i])

/-- `PTSET`: the point of one entry on (41_framebuffer.md R103). -/
def execPtset (idx : Nat) (s : State) : Host.Outcome State Fault Refusal :=
  .next (s.modifyEntry idx s.cfg.ptOn)

/-- `PTCLR`: the point of one entry off (41_framebuffer.md R104). -/
def execPtclr (idx : Nat) (s : State) : Host.Outcome State Fault Refusal :=
  .next (s.modifyEntry idx s.cfg.ptOff)

end Sys2Proof.Machine
end

