-- ==== Sys2Proof/Machine/Dispatch.lean ====
section
/-! DEFINITION. The meaning of each command, one arm per constructor of Instr (41_framebuffer.md R100). -/

namespace Sys2Proof.Machine

def exec (i : Instr) (s : State) : Host.Outcome State Fault Refusal :=
  match i with
  | .nop => Sys2Proof.Machine.execNop s
  | .load pv pi chars => Sys2Proof.Machine.execLoad pv pi chars s
  | .ptset idx => Sys2Proof.Machine.execPtset idx s
  | .ptclr idx => Sys2Proof.Machine.execPtclr idx s
  | .showOnce => Sys2Proof.Machine.execShow s
  | .showFor duration => Sys2Proof.Machine.execShowFor duration s

end Sys2Proof.Machine
end

