-- ==== Sys2Proof/Machine/Step.lean ====
section
/-! DEFINITION. One clock cycle of the block (41_framebuffer.md R100; 60_exceptions.md R172). -/

namespace Sys2Proof.Machine

/-- One rising edge of `clk`: reset, else accept a command, else nothing in IDLE, else a driver step. In each case the
input ports move on to the next cycle. A reserved word that is accepted is refused (60_exceptions.md R171). -/
def step (s : State) : Host.Outcome State Fault Refusal :=
  if s.port.rst then .next s.nextCycle.applyReset
  else if s.st = .idle then
    if s.port.cmdValid then
      match decode s.port.cmd with
      | .ok i => exec i s.nextCycle
      | .error _ => .refused .reservedEncoding
    else .next s.nextCycle
  else .next s.nextCycle.driverStep

/-- The ports of the present cycle carry the command word whose low `nbits` bits are `w`'s, with `cmd_valid = 1` and
`rst = 0`, and the driver is in IDLE, so that the next step accepts it (41_framebuffer.md R100; log 3). -/
def State.withFetchWord (s : State) (nbits w : Nat) : State :=
  let t := if s.st = .idle then s else s.endShow
  { t with inputs := PortInput.command (BitVec.ofNat 80 (w % 2 ^ nbits)) :: s.inputs.tail }

end Sys2Proof.Machine
end

