-- ==== Sys2Proof/Machine/Format.lean ====
section
/-! DEFINITION. The host's converter and layout formatter, and the expansions of SET, PRINT and BLANK
(44_host_set_print.md R150 to R158; 30_encoding.md R70). Outside the block: pure functions. -/

namespace Sys2Proof.Machine

/-- The host's tagged input (44_host_set_print.md R150). A real is an exact rational with its decimal places. -/
inductive HostValue where
  | integer (v : Int)
  | real (v : Rat) (d : Nat)
  | character (ch : Byte)
  | text (t : List Byte)
  deriving DecidableEq, Repr

/-- `Alignment` (44_host_set_print.md R150). -/
inductive Alignment where
  | left
  | right
  | center
  deriving DecidableEq, Repr

/-- The code of `'-'`. -/
def minusCode : Byte := 0x2D#8

/-- The code of a space. -/
def spaceCode : Byte := 0x20#8

/-- The code of the decimal digit `n % 10`. -/
def digitCode (n : Nat) : Byte := BitVec.ofNat 8 (0x30 + n % 10)

/-- `countCharacters` with a bound on the recursion (44_host_set_print.md R151); `/` truncates toward zero. -/
def countCharactersUpTo : Nat → Int → Nat
  | 0, v => if v < 0 then 2 else 1
  | fuel + 1, v =>
    if v.natAbs < 10 then (if v < 0 then 2 else 1) else 1 + countCharactersUpTo fuel (v.tdiv 10)

/-- `countCharacters(v)`, the length of the decimal form (44_host_set_print.md R151). -/
def countCharacters (v : Int) : Nat := countCharactersUpTo v.natAbs v

/-- The decimal digits of `n` in front of `acc`, with a bound on the recursion. -/
def decimalUpTo : Nat → Nat → List Byte → List Byte
  | 0, n, acc => digitCode n :: acc
  | fuel + 1, n, acc => if n < 10 then digitCode n :: acc else decimalUpTo fuel (n / 10) (digitCode n :: acc)

/-- The decimal form of a natural number, without leading zeros (44_host_set_print.md R152). -/
def decimal (n : Nat) : List Byte := decimalUpTo n n []

/-- Rounding to the nearest integer, halves away from zero (44_host_set_print.md R153). -/
def roundHalfAway (q : Rat) : Int :=
  let m : Nat := (2 * q.num.natAbs + q.den) / (2 * q.den)
  if q.num < 0 then -(m : Int) else m

/-- `chars(Integer(v))` (44_host_set_print.md R152). -/
def integerChars (v : Int) : List Byte :=
  if v < 0 then minusCode :: decimal v.natAbs else decimal v.natAbs

/-- `chars(Real(v, d))` (44_host_set_print.md R153). -/
def realChars (v : Rat) (d : Nat) : List Byte :=
  let sign : Nat := if v.num < 0 then 1 else 0
  let trunc : Int := v.num.tdiv v.den
  let intLen := countCharacters trunc + (if v.num < 0 ∧ trunc = 0 then 1 else 0)
  let digits := decimal (roundHalfAway (v * 10 ^ d)).natAbs
  let size := max (intLen + d) (sign + digits.length)
  (if v.num < 0 then [minusCode] else []) ++ List.replicate (size - sign - digits.length) (digitCode 0) ++ digits

/-- `chars(v)` (44_host_set_print.md R152 to R154). -/
def HostValue.chars : HostValue → List Byte
  | .integer v => integerChars v
  | .real v d => realChars v d
  | .character ch => [ch]
  | .text t => t

/-- The left end of the window; `floor` rounds toward −∞ (44_host_set_print.md R155). -/
def windowLeft (c size : Nat) : Alignment → Int
  | .left => 0
  | .right => (c : Int) - size
  | .center => ((c : Int) - size).fdiv 2

/-- The right end of the window (44_host_set_print.md R155). -/
def windowRight (c size : Nat) (align : Alignment) : Int := windowLeft c size align + size - 1

/-- `formatted[p]` (44_host_set_print.md R155): `chars[p - left]` inside the window, a space elsewhere. -/
def formattedAt (c : Nat) (chars : List Byte) (align : Alignment) (p : Nat) : Byte :=
  if windowLeft c chars.length align ≤ p ∧ (p : Int) ≤ windowRight c chars.length align then
    chars.getD ((p : Int) - windowLeft c chars.length align).toNat spaceCode
  else spaceCode

/-- The formatted sequence of exactly C characters (44_host_set_print.md R155). -/
def formatted (c : Nat) (chars : List Byte) (align : Alignment) : List Byte :=
  (List.range c).map (formattedAt c chars align)

/-- The point index, when a point is shown (44_host_set_print.md R156). -/
def pointIndex (c : Nat) (v : HostValue) (align : Alignment) : Option Nat :=
  match v with
  | .real _ d =>
    let pi := windowRight c v.chars.length align - d
    if 1 ≤ d ∧ 0 ≤ pi ∧ pi ≤ (c : Int) - 1 then some pi.toNat else none
  | .integer _ => none
  | .character _ => none
  | .text _ => none

/-- `SET value, align` on a display of `c` digits: one LOAD (44_host_set_print.md R157). -/
def expandSet (c : Nat) (v : HostValue) (align : Alignment) : Instr :=
  .load (pointIndex c v align).isSome ((pointIndex c v align).getD 0)
    (Vector.ofFn fun p => if p.val < c then formattedAt c v.chars align p.val else spaceCode)

/-- The pseudo-instructions (30_encoding.md R70). -/
inductive Pseudo where
  | set (v : HostValue) (align : Alignment)
  | print (dur : Nat) (v : HostValue) (align : Alignment)
  | blank
  deriving DecidableEq, Repr

/-- The commands a pseudo-instruction expands to, on a display of `c` digits (30_encoding.md R70;
44_host_set_print.md R157, R158). -/
def Pseudo.expand (c : Nat) : Pseudo → List Instr
  | .set v align => [expandSet c v align]
  | .print dur v align => [expandSet c v align, .showFor dur]
  | .blank => [.showFor 0]

end Sys2Proof.Machine
end

