-- ==== Sys2Proof/Machine/Assembler.lean ====
section
/-! DEFINITION. The assembler syntax of 30_encoding.md R69: lines of text, their operands, the command words. -/

namespace Sys2Proof.Machine

/-- One line of assembler syntax (30_encoding.md R69), and BLANK, the one pseudo-instruction that has no operands (R70). -/
inductive AsmLine where
  | nop
  | load (s : List Byte) (pt : Option Nat)
  | loadRaw (pay : BitVec 64) (pt : Option Nat)
  | ptset (n : Nat)
  | ptclr (n : Nat)
  | showOnce
  | showFor (d : Nat)
  | blank
  deriving DecidableEq, Repr

/-- `pt=n` gives PV = 1, PI = n, with n at most 7; no `pt` gives PV = 0, PI = 0 (30_encoding.md R69). -/
def asmLoad (pt : Option Nat) (chars : Vector Byte 8) : Option Instr :=
  match pt with
  | none => some (.load false 0 chars)
  | some n => if n ≤ 7 then some (.load true n chars) else none

/-- The instruction of a line; `none` is an assembler error (30_encoding.md R69). -/
def AsmLine.assemble : AsmLine → Option Instr
  | .nop => some .nop
  | .load s pt => if s.length ≤ 8 then asmLoad pt (Vector.ofFn fun i => s.getD i.val spaceCode) else none
  | .loadRaw pay pt => asmLoad pt (charsOf pay)
  | .ptset n => if n ≤ 255 then some (.ptset n) else none
  | .ptclr n => if n ≤ 255 then some (.ptclr n) else none
  | .showOnce => some .showOnce
  | .showFor d => if d ≤ 2 ^ 32 - 1 then some (.showFor d) else none
  | .blank => some (.showFor 0)

/-- The command word of a line (30_encoding.md R69). -/
def AsmLine.word (l : AsmLine) : Option CmdWord := l.assemble.map encode

/-- A blank of the source text. -/
def isBlankChar (c : Char) : Bool := c == ' ' || c == '\t'

/-- The text without leading blanks. -/
def skipBlanks (cs : List Char) : List Char := cs.dropWhile isBlankChar

/-- The text without blanks at either end. -/
def trimBlanks (cs : List Char) : List Char := (skipBlanks (skipBlanks cs).reverse).reverse

/-- `;` starts a comment (30_encoding.md R69); inside a quoted string it is a character (log 16). -/
def stripComment : Bool → List Char → List Char
  | _, [] => []
  | quoted, c :: cs =>
    if c == ';' && !quoted then [] else c :: stripComment (if c == '"' then !quoted else quoted) cs

/-- The value of a digit in a base of 10 or 16. -/
def digitValue (base : Nat) (c : Char) : Option Nat :=
  let n := c.toNat
  let v := if 0x30 ≤ n ∧ n ≤ 0x39 then n - 0x30
    else if 0x41 ≤ n ∧ n ≤ 0x46 then n - 0x37
    else if 0x61 ≤ n ∧ n ≤ 0x66 then n - 0x57
    else 16
  if v < base then some v else none

/-- The value of a string of digits after `acc`. -/
def digitsValue (base : Nat) : Nat → List Char → Option Nat
  | acc, [] => some acc
  | acc, c :: cs =>
    match digitValue base c with
    | some v => digitsValue base (acc * base + v) cs
    | none => none

/-- A number, decimal or `0x` hex (30_encoding.md R69). -/
def numberValue : List Char → Option Nat
  | [] => none
  | '0' :: 'x' :: c :: cs => digitsValue 16 0 (c :: cs)
  | c :: cs => digitsValue 10 0 (c :: cs)

/-- The end of a LOAD line: nothing, or `, pt=n` (30_encoding.md R69). The outer `none` is a syntax error. -/
def parsePoint (cs : List Char) : Option (Option Nat) :=
  match skipBlanks cs with
  | [] => some none
  | ',' :: rest =>
    match skipBlanks rest with
    | 'p' :: 't' :: '=' :: n => (numberValue (trimBlanks n)).map some
    | _ => none
  | _ => none

/-- The 8-bit codes of the characters of a string (30_encoding.md R69; 40_rom.md R81). -/
def codesOf : List Char → Option (List Byte)
  | [] => some []
  | c :: cs => if c.toNat < 256 then (codesOf cs).map (BitVec.ofNat 8 c.toNat :: ·) else none

/-- `LOAD "s"` and `LOAD "s", pt=n` after the mnemonic (30_encoding.md R69). -/
def parseLoad (cs : List Char) : Option AsmLine :=
  match cs with
  | '"' :: rest =>
    match rest.dropWhile (· != '"') with
    | _ :: tail =>
      match codesOf (rest.takeWhile (· != '"')), parsePoint tail with
      | some s, some pt => some (.load s pt)
      | _, _ => none
    | [] => none
  | _ => none

/-- `LOAD.x 0xHHHHHHHHHHHHHHHH` with exactly 16 hex digits, and its point, after the mnemonic (30_encoding.md R69). -/
def parseLoadRaw (cs : List Char) : Option AsmLine :=
  match cs with
  | '0' :: 'x' :: rest =>
    if rest.length < 16 then none
    else
      match digitsValue 16 0 (rest.take 16), parsePoint (rest.drop 16) with
      | some v, some pt => some (.loadRaw (BitVec.ofNat 64 v) pt)
      | _, _ => none
  | _ => none

/-- One line of source text: `some none` has no command, `none` is a syntax error (30_encoding.md R69, R70). -/
def parseChars (line : List Char) : Option (Option AsmLine) :=
  let cs := trimBlanks (stripComment false line)
  let name := cs.takeWhile (fun c => !isBlankChar c)
  let rest := skipBlanks (cs.dropWhile (fun c => !isBlankChar c))
  match String.ofList name, rest with
  | "", [] => some none
  | "NOP", [] => some (some .nop)
  | "SHOW", [] => some (some .showOnce)
  | "BLANK", [] => some (some .blank)
  | "LOAD", r => (parseLoad r).map some
  | "LOAD.x", r => (parseLoadRaw r).map some
  | "PTSET", r => (numberValue r).map (some ∘ AsmLine.ptset)
  | "PTCLR", r => (numberValue r).map (some ∘ AsmLine.ptclr)
  | "SHOWFOR", r => (numberValue r).map (some ∘ AsmLine.showFor)
  | _, _ => none

/-- One line of source text as a string. -/
def parseLine (line : String) : Option (Option AsmLine) := parseChars line.toList

end Sys2Proof.Machine
end

