-- ==== Sys2Proof/Machine/Display.lean ====
section
/-! DEFINITION. What is displayed: the bytes the chain received and the lit segments (60_exceptions.md R177, R178). The
wiring is taken to match BIT_ORDER and FIRST_BYTE, as the spec's rule assumes (70_reset_and_hazards.md R198; log 15). -/

namespace Sys2Proof.Machine

/-- `FIRST_RX`: the byte of the far register, stages 8 to 15, in the configured bit order (60_exceptions.md R177). -/
def firstRx (cfg : Config) (out : FrameWord) : Byte :=
  match cfg.bitOrder with
  | .msbFirst => out.extractLsb' 8 8
  | .lsbFirst => (out.extractLsb' 8 8).reverse

/-- `SECOND_RX`: the byte of the near register, stages 0 to 7, in the configured bit order (60_exceptions.md R177). -/
def secondRx (cfg : Config) (out : FrameWord) : Byte :=
  match cfg.bitOrder with
  | .msbFirst => out.extractLsb' 0 8
  | .lsbFirst => (out.extractLsb' 0 8).reverse

/-- `INDEX_RX` (60_exceptions.md R177). -/
def indexRx (cfg : Config) (out : FrameWord) : Byte :=
  match cfg.firstByte with
  | .index => firstRx cfg out
  | .segment => secondRx cfg out

/-- `SEG_RX` (60_exceptions.md R177). -/
def segRx (cfg : Config) (out : FrameWord) : Byte :=
  match cfg.firstByte with
  | .index => secondRx cfg out
  | .segment => firstRx cfg out

/-- `lit(i, s)`: segment bit `seg` of digit position `i` is on. Index bits at or above C drive nothing
(60_exceptions.md R177, R178). -/
def lit (cfg : Config) (out : FrameWord) (i seg : Nat) : Bool :=
  decide (i < cfg.digitCount) &&
    match cfg.polarity with
    | .ca => (indexRx cfg out).getLsbD i && !(segRx cfg out).getLsbD seg
    | .cc => !(indexRx cfg out).getLsbD i && (segRx cfg out).getLsbD seg

/-- `lit(i, s)` of a state, for `s` one of the eight bits of a pattern byte (60_exceptions.md R178). -/
def State.lit (s : State) (i : Nat) (seg : Fin 8) : Bool := Machine.lit s.cfg s.out i seg.val

/-- Nothing is lit on any digit position. -/
abbrev State.dark (s : State) : Prop := ∀ (i : Fin 8) (seg : Fin 8), s.lit i.val seg = false

end Sys2Proof.Machine
end

