-- ==== Sys2Proof/Machine/Run.lean ====
section
/-! DEFINITION. Runs of many cycles, and a host that keeps its duties (20_memory.md R50; 41_framebuffer.md R105;
70_reset_and_hazards.md R192, R193). -/

namespace Sys2Proof.Machine

/-- `n` clock cycles under the inputs the state lists, stopping at a refusal. -/
def run : Nat → State → Host.Outcome State Fault Refusal
  | 0, s => .next s
  | n + 1, s =>
    match step s with
    | .next t => run n t
    | .fault r => .fault r
    | .refused r => .refused r

/-- One cycle of a host that holds its first word until it is accepted (41_framebuffer.md R105;
70_reset_and_hazards.md R193): the words still to be accepted, and the outcome. -/
def hostStep (words : List CmdWord) (s : State) : List CmdWord × Host.Outcome State Fault Refusal :=
  match words with
  | [] => ([], step { s with inputs := [PortInput.quiet] })
  | w :: rest => (if s.busy then w :: rest else rest, step { s with inputs := [PortInput.command w] })

/-- `n` cycles of that host. -/
def hostRun : Nat → List CmdWord → State → List CmdWord × Host.Outcome State Fault Refusal
  | 0, words, s => (words, .next s)
  | n + 1, words, s =>
    match hostStep words s with
    | (rest, .next t) => hostRun n rest t
    | (rest, .fault r) => (rest, .fault r)
    | (rest, .refused r) => (rest, .refused r)

/-- A host that resets the block for one cycle first, as 70_reset_and_hazards.md R192 asks. -/
def hostBoot (n : Nat) (words : List CmdWord) (s : State) : List CmdWord × Host.Outcome State Fault Refusal :=
  match step { s with inputs := [PortInput.reset] } with
  | .next t => hostRun n words t
  | .fault r => (words, .fault r)
  | .refused r => (words, .refused r)

end Sys2Proof.Machine
end

