-- ==== Sys2Proof/Safety.lean ====
section
/-! DEFINITION. What counts as a legal state: the relations between fields that 10_state.md, 42_driver.md R130 to R133 and
60_exceptions.md R174 to R179 give for every state the block can be in. -/

namespace Sys2Proof.Machine

/-- No reset in the present cycle and the `n - 1` after it. -/
abbrev State.noResetFor (s : State) (n : Nat) : Prop := ∀ k < n, (s.portAt k).rst = false

/-- R27: NONE exactly in IDLE. The duration test belongs to a timed repeat (42_driver.md R130). -/
abbrev State.modeLegal (s : State) : Prop :=
  (s.mode = .none ↔ s.st = .idle) ∧ (s.st = .check → s.mode = .timed)

/-- R28: `clr` is set only while the clear frame is on its way (42_driver.md R130). -/
abbrev State.clrLegal (s : State) : Prop :=
  s.st = .idle ∨ s.st = .check ∨ s.st = .dwell → s.clr = false

/-- R29, R30: the digit position stays below C; IDLE starts at digit 0 and bit 0; LATCH_HI follows bit 15. -/
abbrev State.positionLegal (s : State) : Prop :=
  s.dig.toNat < s.cfg.digitCount ∧ (s.st = .idle → s.dig = 0#3 ∧ s.bit = 0#4) ∧ (s.st = .latchHi → s.bit = 15#4)

/-- R31: the dwell counter runs from DW to 1 in DWELL and is 0 elsewhere. -/
abbrev State.dwellLegal (s : State) : Prop :=
  s.cnt ≤ s.cfg.dwellCycles ∧ (s.st = .dwell → 1 ≤ s.cnt) ∧ (s.st ≠ .dwell → s.cnt = 0)

/-- The pin levels of each driver state (42_driver.md R131, R133). -/
abbrev State.pinsLegal (s : State) : Prop :=
  (s.st = .shiftA ∨ s.st = .shiftB ∨ s.st = .latchHi → s.latchO = false) ∧
  (s.st = .dwell → s.latchO = true) ∧
  (s.sclkO = (s.st == .latchHi || (s.st == .shiftA && s.bit != 0#4))) ∧
  (s.st = .shiftB → s.sdataO = sbit s.cfg s.sreg s.bit.toNat)

/-- While a frame is shifted, `sreg` holds its frame word (10_state.md R34; 42_driver.md R123, R124). -/
abbrev State.frameLegal (s : State) : Prop :=
  s.st = .shiftA ∨ s.st = .shiftB ∨ s.st = .latchHi → s.sreg = s.nextWord

/-- How many bits of the present frame the chain has sampled. -/
def State.bitsSent (s : State) : Nat :=
  match s.st with
  | .shiftA => s.bit.toNat
  | .shiftB => s.bit.toNat
  | .latchHi => 16
  | .idle => 0
  | .check => 0
  | .latchLo => 0
  | .dwell => 0

/-- The chain holds `w`, bit `k` of the serial order in the stage it has reached (60_exceptions.md R175). -/
abbrev holdsFrame (cfg : Config) (image w : FrameWord) : Prop :=
  ∀ m : Fin 16, image.getLsbD m.val = sbit cfg w (15 - m.val)

/-- The bits already sent stand in the near stages (60_exceptions.md R174); in DWELL the outputs are the digit's frame, and
an idle block whose latch pin is high has a dark chain (60_exceptions.md R175, R179; 42_driver.md R124). -/
abbrev State.chainLegal (s : State) : Prop :=
  (∀ m : Fin 16, m.val < s.bitsSent → s.stage.getLsbD m.val = sbit s.cfg s.sreg (s.bitsSent - 1 - m.val)) ∧
  (s.st = .dwell → holdsFrame s.cfg s.out (s.digitWord s.dig)) ∧
  (s.st = .idle → s.latchO = true → s.out = 0x0000#16)

/-- The cycles the present frame still takes, this one included (42_driver.md R131). -/
def State.frameLeft (s : State) : Nat :=
  let hold := if s.clr then 0 else s.cfg.dwellCycles
  match s.st with
  | .idle => 0
  | .check => 0
  | .latchLo => 34 + hold
  | .shiftA => 2 * (16 - s.bit.toNat) + 1 + hold
  | .shiftB => 2 * (16 - s.bit.toNat) + hold
  | .latchHi => 1 + hold
  | .dwell => s.cnt

/-- The cycles the present pass still takes, this one included (42_driver.md R131). -/
def State.passLeft (s : State) : Nat :=
  s.frameLeft + (s.cfg.digitCount - 1 - s.dig.toNat) * s.cfg.frameCycles

/-- R32, R33: `dur` is below 2^64 and `elapsed` never exceeds `dur + 35`, since a started pass ends before `dur` cycles
and the clear frame takes 35 (42_driver.md R127, R132). -/
abbrev State.timeLegal (s : State) : Prop :=
  s.dur < 2 ^ 64 ∧ s.elapsed ≤ s.dur + 35 ∧
  (s.st = .check → s.elapsed = 0 ∨ s.elapsed < s.dur) ∧
  (s.mode = .timed → s.st ≠ .check → s.clr = true → s.elapsed + s.frameLeft ≤ s.dur + 35) ∧
  (s.mode = .timed → s.st ≠ .check → s.clr = false → s.elapsed + s.passLeft < s.dur)

/-- A legal state: lawful parameters and every relation above. -/
abbrev State.Legal (s : State) : Prop :=
  s.cfg.wf = true ∧ s.modeLegal ∧ s.clrLegal ∧ s.positionLegal ∧ s.dwellLegal ∧ s.pinsLegal ∧ s.frameLegal ∧
    s.chainLegal ∧ s.timeLegal

end Sys2Proof.Machine
end

