-- ==== Sys2Proof/Certificates/Slice0/Obligations.lean ====
section
/-! DEFINITION. The statements for the provers. Each docstring says which rule of spec/ it formalises. -/

open Sys2Proof Sys2Proof.Machine

/-! ### Commands -/

/-- 41_framebuffer.md R101: NOP is the word with OP 0x00 and nothing else in it, a word with OP 0x00 and another bit is
reserved, and NOP completes from every state and leaves every field as it was. -/
def Obligations.NopLeavesEveryField : Prop :=
  (∀ s : State, exec .nop s = .next s) ∧
  (∀ w : CmdWord, decode w = .ok .nop ↔ opField w = 0x00#8 ∧ auxField w = 0#8 ∧ payField w = 0#64) ∧
  (∀ w : CmdWord, opField w = 0x00#8 → (auxField w ≠ 0#8 ∨ payField w ≠ 0#64) →
    ∀ r ∈ opcodeTable, w &&& r.mask ≠ r.pattern)

/-- 41_framebuffer.md R102: LOAD completes from every state; entry `i < C` becomes `ROM(CH_i)`, with `PT_ON` where PV = 1 and
PI = i; the entries from C on and every other field (the driver, the pins, the chain) keep their values; a second LOAD
with the same operands changes nothing. Its words have OP 0x01, PV and PI in AUX, the characters in PAY. -/
def Obligations.LoadReplacesUsedEntries : Prop :=
  ∀ (s : State) (pv : Bool) (pi : Nat) (chars : Vector Byte 8),
    (pi < 8 → decode (wordOf 0x01#8 (loadAux pv pi) (payOf chars)) = .ok (.load pv pi chars)) ∧
    ∃ t, exec (.load pv pi chars) s = .next t ∧
    (∀ i : Fin 8, i.val < s.cfg.digitCount →
      t.fb[i] = if pv = true ∧ pi = i.val then s.cfg.ptOn (s.cfg.rom chars[i]) else s.cfg.rom chars[i]) ∧
    (∀ i : Fin 8, s.cfg.digitCount ≤ i.val → t.fb[i] = s.fb[i]) ∧
    t = { s with fb := t.fb } ∧ exec (.load pv pi chars) t = .next t

/-- 30_encoding.md R62 and 41_framebuffer.md R102, corner cases 1 and 3: `CH_i` for `i ≥ C` and a point index outside the
display have no effect on what LOAD does. -/
def Obligations.LoadIgnoresUnusedOperands : Prop :=
  ∀ (s : State) (pv : Bool) (pi pi' : Nat) (chars chars' : Vector Byte 8),
    (∀ i : Fin 8, i.val < s.cfg.digitCount → chars[i] = chars'[i]) →
    (pi = pi' ∨ pv = false ∨ (s.cfg.digitCount ≤ pi ∧ s.cfg.digitCount ≤ pi')) →
    exec (.load pv pi chars) s = exec (.load pv pi' chars') s

/-- 41_framebuffer.md R103: PTSET completes from every state; with `IDX < C` it puts `PT_ON(FB[IDX])` into entry IDX and
keeps every other entry and field, otherwise nothing changes; where the point is on already nothing changes either. Its
words have OP 0x02, IDX in AUX and PAY = 0. -/
def Obligations.PtsetSetsOnePoint : Prop :=
  ∀ (s : State) (idx : Nat),
    (idx < 256 → decode (wordOf 0x02#8 (BitVec.ofNat 8 idx) 0#64) = .ok (.ptset idx)) ∧
    ∃ t, exec (.ptset idx) s = .next t ∧
    (∀ i : Fin 8, t.fb[i] = if i.val = idx ∧ idx < s.cfg.digitCount then s.cfg.ptOn s.fb[i] else s.fb[i]) ∧
    t = { s with fb := t.fb } ∧ (s.cfg.digitCount ≤ idx → t = s) ∧ exec (.ptset idx) t = .next t

/-- 41_framebuffer.md R104: PTCLR completes from every state; with `IDX < C` it puts `PT_OFF(FB[IDX])` into entry IDX and
keeps every other entry and field, otherwise nothing changes; where the point is off already nothing changes either. Its
words have OP 0x03, IDX in AUX and PAY = 0. -/
def Obligations.PtclrClearsOnePoint : Prop :=
  ∀ (s : State) (idx : Nat),
    (idx < 256 → decode (wordOf 0x03#8 (BitVec.ofNat 8 idx) 0#64) = .ok (.ptclr idx)) ∧
    ∃ t, exec (.ptclr idx) s = .next t ∧
    (∀ i : Fin 8, t.fb[i] = if i.val = idx ∧ idx < s.cfg.digitCount then s.cfg.ptOff s.fb[i] else s.fb[i]) ∧
    t = { s with fb := t.fb } ∧ (s.cfg.digitCount ≤ idx → t = s) ∧ exec (.ptclr idx) t = .next t

/-- 20_memory.md R48 with 41_framebuffer.md R103, R104: PTSET and PTCLR change at most bit 0, and only of entry IDX. -/
def Obligations.PointCommandsWriteOnlyThePointBit : Prop :=
  ∀ (s : State) (idx : Nat) (i : Instr), i = .ptset idx ∨ i = .ptclr idx → ∃ t, exec i s = .next t ∧
    ∀ (j k : Fin 8), (j.val ≠ idx ∨ k ≠ 0) → t.fb[j].getLsbD k.val = s.fb[j].getLsbD k.val

/-- 20_memory.md R49: LOAD, PTSET and PTCLR are idempotent. -/
def Obligations.FrameBufferCommandsAreIdempotent : Prop :=
  ∀ (s : State) (i : Instr), i.mnemonic = "LOAD" ∨ i.mnemonic = "PTSET" ∨ i.mnemonic = "PTCLR" →
    ∃ t, exec i s = .next t ∧ exec i t = .next t

/-- 42_driver.md R120, the accept cycle: SHOW completes from every state, writes `mode`, `clr`, `dig` and `st`, and keeps
every other field (the frame buffer, the pins and the chain among them). -/
def Obligations.ShowStartsSinglePass : Prop :=
  ∀ s : State, exec .showOnce s = .next { s with mode := .once, clr := false, dig := 0#3, st := .latchLo }

/-- 42_driver.md R121, the accept cycle: SHOWFOR completes from every state, writes `mode`, `dur`, `elapsed`, `clr`, `dig`
and `st`, and keeps every other field; `dur` is the exact product, below 2^64 for a 32-bit DURATION and a lawful U. -/
def Obligations.ShowForStartsTimedRepeat : Prop :=
  ∀ (s : State) (d : Nat),
    exec (.showFor d) s =
      .next { s with mode := .timed, dur := d * s.cfg.cyclesPerUnit, elapsed := 0, clr := false, dig := 0#3, st := .check } ∧
    ((Instr.showFor d).wf = true → s.cfg.wf = true → d * s.cfg.cyclesPerUnit < 2 ^ 64)

/-! ### Encoding -/

/-- 95_test_vectors.md L2-E1: some words of the spec's table and the commands they stand for. -/
def Obligations.SampleWordsDecode : Prop :=
  decode 0x00000000000000000000#80 = .ok .nop ∧
  decode 0x01812020202034313320#80 =
    .ok (.load true 1 #v[0x20#8, 0x33#8, 0x31#8, 0x34#8, 0x20#8, 0x20#8, 0x20#8, 0x20#8]) ∧
  decode 0x01070000000000000000#80 = .ok (.load false 7 #v[0#8, 0#8, 0#8, 0#8, 0#8, 0#8, 0#8, 0#8]) ∧
  decode 0x02FF0000000000000000#80 = .ok (.ptset 255) ∧
  decode 0x03000000000000000000#80 = .ok (.ptclr 0) ∧
  decode 0x04000000000000000000#80 = .ok .showOnce ∧
  decode 0x050000000000FFFFFFFF#80 = .ok (.showFor 4294967295)

/-- 30_encoding.md R61 to R66: decoding the word of a well-formed command gives the command back, every operand at every
value its field admits. -/
def Obligations.DecodeOfEncodeIsIdentity : Prop :=
  ∀ i : Instr, i.wf = true → decode (encode i) = .ok i

/-- 30_encoding.md R66, R68: a word that decodes is the word of what it decodes to, and that command is well formed; so no
bit of an accepted word is dropped, and two words never mean one command. -/
def Obligations.EncodeOfDecodeIsIdentity : Prop :=
  ∀ (w : CmdWord) (i : Instr), decode w = .ok i → i.wf = true ∧ encode i = w

/-- 30_encoding.md R61: "a word w encodes the row's command exactly when `(w & mask) = match`": the decoder, written from
the field rules, reads a command with a row's mnemonic exactly from the words the row admits. -/
def Obligations.DecoderMeetsOpcodeMap : Prop :=
  ∀ (w : CmdWord) (r : OpcodeRow), r ∈ opcodeTable →
    (w &&& r.mask = r.pattern ↔ ∃ i, decode w = .ok i ∧ i.mnemonic = r.mnemonic)

/-- 30_encoding.md R68: at most one row admits a word, and a word that no row admits is the one the decoder rejects. -/
def Obligations.AtMostOneRowAdmitsAWord : Prop :=
  ∀ w : CmdWord,
    (∀ r ∈ opcodeTable, ∀ r' ∈ opcodeTable, w &&& r.mask = r.pattern → w &&& r'.mask = r'.pattern → r = r') ∧
    ((∀ r ∈ opcodeTable, w &&& r.mask ≠ r.pattern) ↔ ∃ e, decode w = .error e)

/-- 30_encoding.md R67: the reserved words, family by family: OP 0x06 to 0xFF, and each row's opcode with a nonzero
must-be-zero bit; no other word is rejected. -/
def Obligations.ReservedWordsByFamily : Prop :=
  ∀ w : CmdWord,
    (decode w = .error .reservedOpcode ↔ 6 ≤ (opField w).toNat) ∧
    (decode w = .error .nonzeroReservedBits ↔
      (((opField w).toNat = 0 ∨ (opField w).toNat = 4) ∧ (auxField w ≠ 0#8 ∨ payField w ≠ 0#64)) ∨
      ((opField w).toNat = 1 ∧ (auxField w).extractLsb' 3 4 ≠ 0#4) ∨
      (((opField w).toNat = 2 ∨ (opField w).toNat = 3) ∧ payField w ≠ 0#64) ∨
      ((opField w).toNat = 5 ∧ (auxField w ≠ 0#8 ∨ (payField w).extractLsb' 32 32 ≠ 0#32)))

/-- 30_encoding.md R69: every line the assembler accepts has a word, and the block reads from it the line's command. -/
def Obligations.AssembledLineDecodesToItsCommand : Prop :=
  ∀ (l : AsmLine) (i : Instr), l.assemble = some i → ∃ w, l.word = some w ∧ decode w = .ok i

/-! ### One clock cycle -/

/-- 41_framebuffer.md R100: in IDLE, with `cmd_valid = 1` and no reset, a step is the meaning of the decoded command, on the
state whose input ports have moved on to the next cycle. -/
def Obligations.StepRunsDecodedCommand : Prop :=
  ∀ (s : State) (i : Instr), s.port.rst = false → s.st = .idle → s.port.cmdValid = true → decode s.port.cmd = .ok i →
    step s = exec i { s with inputs := s.inputs.tail }

/-- 60_exceptions.md R171 with 30_encoding.md R67: accepting a word that no row of the opcode map admits is refused, and the
refusal is sticky: no later cycle takes this run, or any refused run, out of it. -/
def Obligations.AcceptedReservedWordIsRefused : Prop :=
  (∀ s : State, s.port.rst = false → s.st = .idle → s.port.cmdValid = true →
    (∀ r ∈ opcodeTable, s.port.cmd &&& r.mask ≠ r.pattern) → ∀ n, run (n + 1) s = .refused .reservedEncoding) ∧
  ∀ (n m : Nat) (s : State) (r : Refusal), run n s = .refused r → run (n + m) s = .refused r

/-- 60_exceptions.md R170: a cycle completes exactly when it accepts no reserved word: there is no other failure path. -/
def Obligations.EveryOtherCycleCompletes : Prop :=
  ∀ s : State, ¬ (s.accepts = true ∧ ∃ e, decode s.port.cmd = .error e) ↔ ∃ t, step s = .next t

/-- 70_reset_and_hazards.md R190 and 10_state.md R37: a cycle with `rst = 1` gives every field its reset value whatever the
state and the command port, under BLANK the blank pattern in all eight entries; parameters stay; the block is ready in the first cycle without a reset.
Under ANY an entry is arbitrary, and nothing is said of it. -/
def Obligations.ResetCycleGivesResetState : Prop :=
  ∀ s : State, s.port.rst = true → ∃ t, step s = .next t ∧
    t.cfg = s.cfg ∧ t.st = .idle ∧ t.mode = .none ∧ t.clr = false ∧ t.dig = 0#3 ∧ t.bit = 0#4 ∧ t.cnt = 0 ∧
    t.elapsed = 0 ∧ t.dur = 0 ∧ t.sreg = 0#16 ∧ t.latchO = false ∧ t.sclkO = false ∧ t.sdataO = false ∧
    t.inputs = s.inputs.tail ∧ (t.port.rst = false → t.cmdReady = true) ∧
    (s.cfg.fbResetPolicy = .blank →
      ∀ i : Fin 8, t.fb[i] = match s.cfg.polarity with | .cc => 0x00#8 | .ca => 0xFF#8)

/-- 70_reset_and_hazards.md R191 and 10_state.md R38: a reset cycle neither shifts nor latches the chain, whatever the state. -/
def Obligations.ResetCycleKeepsChain : Prop :=
  ∀ s : State, s.port.rst = true → ∃ t, step s = .next t ∧ t.stage = s.stage ∧ t.out = s.out

/-- 10_state.md R37: the state after construction with any parameters. The values of the chain are free (60_exceptions.md
R176), and nothing is said of them. -/
def Obligations.ConstructedStateHasResetValues : Prop :=
  ∀ (cfg : Config) (inputs : List PortInput),
    (State.resetWith cfg inputs).st = .idle ∧ (State.resetWith cfg inputs).mode = .none ∧
    (State.resetWith cfg inputs).clr = false ∧ (State.resetWith cfg inputs).dig = 0#3 ∧
    (State.resetWith cfg inputs).bit = 0#4 ∧ (State.resetWith cfg inputs).cnt = 0 ∧
    (State.resetWith cfg inputs).elapsed = 0 ∧ (State.resetWith cfg inputs).dur = 0 ∧
    (State.resetWith cfg inputs).sreg = 0#16 ∧ (State.resetWith cfg inputs).latchO = false ∧
    (State.resetWith cfg inputs).sclkO = false ∧ (State.resetWith cfg inputs).sdataO = false ∧
    (cfg.fbResetPolicy = .blank →
      ∀ i : Fin 8, (State.resetWith cfg inputs).fb[i] = match cfg.polarity with | .cc => 0x00#8 | .ca => 0xFF#8) ∧
    ((State.resetWith cfg inputs).port.rst = false → (State.resetWith cfg inputs).cmdReady = true)

/-- 41_framebuffer.md R100: in IDLE with no reset and no command nothing changes but the input ports. -/
def Obligations.IdleCycleChangesNothing : Prop :=
  ∀ s : State, s.port.rst = false → s.st = .idle → s.port.cmdValid = false →
    step s = .next { s with inputs := s.inputs.tail }

/-- 41_framebuffer.md R105: in a cycle with `cmd_ready = 0`, what the host presents, changes or withdraws on the command
port makes no difference to the next state. -/
def Obligations.BusyBlockIgnoresCommandPort : Prop :=
  ∀ (s : State) (p q : PortInput) (later : List PortInput), p.rst = q.rst →
    State.cmdReady { s with inputs := p :: later } = false →
    ∃ t, step { s with inputs := p :: later } = .next t ∧ step { s with inputs := q :: later } = .next t

/-- 42_driver.md R130: the driver step, case by case, each assignment reading the state before the step (00_scope.md R6),
with the chain's answer to the pins' edges (60_exceptions.md R174, R175). Every field not written keeps its value. -/
def Obligations.DriverStepFollowsStateMachine : Prop :=
  ∀ s : State, s.port.rst = false → s.st ≠ .idle →
    ∃ t u, step s = .next t ∧ t = { u with elapsed := if s.mode = .timed then s.elapsed + 1 else s.elapsed
                                           inputs := s.inputs.tail } ∧
      (s.st = .check → s.elapsed + s.cfg.passPeriod < s.dur → u = { s with dig := 0#3, clr := false, st := .latchLo }) ∧
      (s.st = .check → s.dur ≤ s.elapsed + s.cfg.passPeriod → u = { s with clr := true, st := .latchLo }) ∧
      (s.st = .latchLo →
        u = { s with
              latchO := false, sclkO := false, bit := 0#4, st := .shiftA
              sreg := if s.clr = true then 0#16 else
                frameWord s.cfg (indexByte s.cfg s.dig.toNat) (s.fb[s.dig.toNat]'s.dig.isLt) }) ∧
      (s.st = .shiftA → u = { s with sdataO := sbit s.cfg s.sreg s.bit.toNat, sclkO := false, st := .shiftB }) ∧
      (s.st = .shiftB → ∃ stage, u = { s with
              sclkO := true
              stage := stage
              bit := if s.bit = 15#4 then s.bit else s.bit + 1#4
              st := if s.bit = 15#4 then .latchHi else .shiftA } ∧
          (s.sclkO = false → stage.getLsbD 0 = s.sdataO ∧
            ∀ m : Fin 16, m ≠ 0 → stage.getLsbD m.val = s.stage.getLsbD (m.val - 1)) ∧
          (s.sclkO = true → stage = s.stage)) ∧
      (s.st = .latchHi → s.clr = true →
        u = { s with
              sclkO := false, latchO := true, clr := false, mode := .none, dig := 0#3, bit := 0#4, st := .idle
              out := if s.latchO = true then s.out else s.stage }) ∧
      (s.st = .latchHi → s.clr = false →
        u = { s with
              sclkO := false, latchO := true, cnt := s.cfg.dwellCycles, st := .dwell
              out := if s.latchO = true then s.out else s.stage }) ∧
      (s.st = .dwell → 1 < s.cnt → u = { s with cnt := s.cnt - 1 }) ∧
      (s.st = .dwell → s.cnt ≤ 1 → s.dig.toNat + 1 < s.cfg.digitCount →
        u = { s with cnt := 0, dig := s.dig + 1#3, st := .latchLo }) ∧
      (s.st = .dwell → s.cnt ≤ 1 → s.cfg.digitCount ≤ s.dig.toNat + 1 → s.mode = .once →
        u = { s with cnt := 0, clr := true, st := .latchLo }) ∧
      (s.st = .dwell → s.cnt ≤ 1 → s.cfg.digitCount ≤ s.dig.toNat + 1 → s.mode ≠ .once →
        u = { s with cnt := 0, st := .check })

/-- 42_driver.md R127: in CHECK a new pass starts exactly when `elapsed + P < dur`, with `P = 1 + C × (34 + DW)`
(R131); otherwise the clear frame is next. -/
def Obligations.PassStartsExactlyWhenTimeAllows : Prop :=
  ∀ s : State, s.port.rst = false → s.st = .check → ∃ t, step s = .next t ∧ t.st = .latchLo ∧
    (s.elapsed + (1 + s.cfg.digitCount * (34 + s.cfg.dwellCycles)) < s.dur → t.clr = false ∧ t.dig = 0#3) ∧
    (s.dur ≤ s.elapsed + (1 + s.cfg.digitCount * (34 + s.cfg.dwellCycles)) → t.clr = true)

/-! ### Whole-machine rules -/

/-- 00_scope.md R4: no step changes a parameter. -/
def Obligations.ParametersNeverChange : Prop :=
  ∀ s t : State, step s = .next t → t.cfg = s.cfg

/-- 20_memory.md R51: while the block is busy the frame buffer does not change, except by reset. -/
def Obligations.FrameBufferFrozenWhileBusy : Prop :=
  ∀ s t : State, step s = .next t → s.st ≠ .idle → s.port.rst = false → t.fb = s.fb

/-- 20_memory.md R43: the block cannot read the chain back: with other contents in the chain a cycle has the same outcome,
and the same next state but for the chain. -/
def Obligations.ChainNeverInfluencesTheBlock : Prop :=
  ∀ (s : State) (stage out : FrameWord),
    (∀ t, step s = .next t → ∃ stage' out', step { s with stage := stage, out := out } =
      .next { t with stage := stage', out := out' }) ∧
    (∀ r, step s = .refused r → step { s with stage := stage, out := out } = .refused r)

/-- 10_state.md R24: only LOAD, PTSET and PTCLR write the frame buffer (and reset, R37). -/
def Obligations.OnlyThreeCommandsWriteFrameBuffer : Prop :=
  ∀ s t : State, step s = .next t → s.port.rst = false → t.fb ≠ s.fb →
    s.accepts = true ∧ ∃ i, decode s.port.cmd = .ok i ∧
      (i.mnemonic = "LOAD" ∨ i.mnemonic = "PTSET" ∨ i.mnemonic = "PTCLR")

/-- 10_state.md R25: no command and no driver step writes an entry from C on. -/
def Obligations.UnusedEntriesKeepTheirValue : Prop :=
  ∀ s t : State, step s = .next t → s.port.rst = false →
    ∀ i : Fin 8, s.cfg.digitCount ≤ i.val → t.fb[i] = s.fb[i]

/-- 42_driver.md R126: `elapsed` grows by one in every busy cycle of a timed repeat, is set to 0 by SHOWFOR, and never
changes otherwise but by reset. -/
def Obligations.ElapsedCountsBusyTimedCycles : Prop :=
  ∀ s t : State, step s = .next t → s.port.rst = false →
    (s.st ≠ .idle → s.mode = .timed → t.elapsed = s.elapsed + 1) ∧
    (s.st ≠ .idle → s.mode ≠ .timed → t.elapsed = s.elapsed) ∧
    (s.st = .idle → (∃ d, s.port.cmdValid = true ∧ decode s.port.cmd = .ok (.showFor d)) → t.elapsed = 0) ∧
    (s.st = .idle → ¬ (∃ d, s.port.cmdValid = true ∧ decode s.port.cmd = .ok (.showFor d)) → t.elapsed = s.elapsed)

/-- 60_exceptions.md R174: on a rise of `sclk_o` every stage takes the stage before it and stage 0 takes `sdata_o`; nothing
else changes the stages, in any cycle. -/
def Obligations.ChainShiftsOnShiftClockRise : Prop :=
  ∀ s t : State, step s = .next t →
    (s.sclkO = false → t.sclkO = true →
      t.stage.getLsbD 0 = t.sdataO ∧ ∀ m : Fin 16, m ≠ 0 → t.stage.getLsbD m.val = s.stage.getLsbD (m.val - 1)) ∧
    (¬ (s.sclkO = false ∧ t.sclkO = true) → t.stage = s.stage)

/-- 60_exceptions.md R175: on a rise of `latch_o` every output takes its stage, and no shift happens in that cycle; the
outputs change at no other time. -/
def Obligations.ChainLatchesOnLatchRise : Prop :=
  ∀ s t : State, step s = .next t →
    (s.latchO = false → t.latchO = true → t.out = s.stage ∧ t.stage = s.stage) ∧
    (¬ (s.latchO = false ∧ t.latchO = true) → t.out = s.out)

/-- 42_driver.md R133 (1), (2), (4) and (5), in every legal state and every cycle: the data pin is stable over a rise of
the shift clock, the two clocks never rise together, the pins of an idle block change only by reset, and the latch pin
never falls while the shift clock is high. -/
def Obligations.PinGuarantees : Prop :=
  ∀ s t : State, s.Legal → step s = .next t →
    (s.sclkO = false → t.sclkO = true → t.sdataO = s.sdataO) ∧
    ¬ (s.sclkO = false ∧ t.sclkO = true ∧ s.latchO = false ∧ t.latchO = true) ∧
    (s.st = .idle → s.port.rst = false → t.latchO = s.latchO ∧ t.sclkO = s.sclkO ∧ t.sdataO = s.sdataO) ∧
    ¬ (s.sclkO = true ∧ s.latchO = true ∧ t.latchO = false)

/-- The invariant of Safety.lean (10_state.md R27 to R34; 42_driver.md R131 to R133; 60_exceptions.md R174, R175): every
step from a legal state, whatever the host presents, reaches a legal state. `elapsed ≤ dur + 35` (R32) is part of it. -/
def Obligations.StepKeepsLegal : Prop :=
  ∀ s t : State, s.Legal → step s = .next t → t.Legal

/-- The invariant holds after construction with any lawful parameters, whatever the chain holds and the host presents. -/
def Obligations.ConstructedStateIsLegal : Prop :=
  ∀ (cfg : Config) (inputs : List PortInput), cfg.wf = true → (State.resetWith cfg inputs).Legal

/-! ### Frames, passes, shows -/

/-- 60_exceptions.md R175 with 42_driver.md R130, R131: 34 cycles after LATCH_LO, with no reset, the chain's stages and
outputs hold the frame word LATCH_LO loaded, bit `15 − m` of the serial order at place `m`; the frame buffer is
untouched. From every state in LATCH_LO. -/
def Obligations.FrameReachesChainOutputs : Prop :=
  ∀ s : State, s.st = .latchLo → s.noResetFor 34 → ∃ t, run 34 s = .next t ∧
    (∀ m : Fin 16, t.stage.getLsbD m.val = sbit s.cfg s.nextWord (15 - m.val)) ∧
    (∀ m : Fin 16, t.out.getLsbD m.val = sbit s.cfg s.nextWord (15 - m.val)) ∧
    t.latchO = true ∧ t.sclkO = false ∧ t.fb = s.fb ∧ t.st = (if s.clr then DriverState.idle else DriverState.dwell)

/-- 42_driver.md R131, the pins within a frame, and R133 (3): after LATCH_LO, with no reset, `latch_o` is 0 for 33 cycles
and rises once, `sclk_o` is 1 in every second cycle from the third on, so sixteen times, and bit `k` of the frame word is
on `sdata_o` from cycle `2 + 2k` until the next one replaces it. From every state in LATCH_LO. -/
def Obligations.FramePinsFollowTheTimingTable : Prop :=
  ∀ s : State, s.st = .latchLo → s.noResetFor 34 →
    (∀ n, 1 ≤ n → n ≤ 33 → ∃ t, run n s = .next t ∧ t.latchO = false ∧ t.sclkO = decide (3 ≤ n ∧ n % 2 = 1) ∧
      (2 ≤ n → t.sdataO = sbit s.cfg s.nextWord ((n - 2) / 2))) ∧
    ∃ t, run 34 s = .next t ∧ t.latchO = true ∧ t.sclkO = false ∧ t.sdataO = sbit s.cfg s.nextWord 15

/-- 42_driver.md R120, R131, R124: a SHOW accepted with no reset after it is busy for exactly `34 + C × (34 + DW)` cycles,
and ends in IDLE with the pins at 1, 0, 0, the chain's outputs all zero and the frame buffer as it was. -/
def Obligations.ShowTakesItsCyclesAndEndsDark : Prop :=
  ∀ s : State, s.st = .idle → s.port.cmdValid = true → decode s.port.cmd = .ok .showOnce → 1 ≤ s.cfg.dwellCycles →
    s.noResetFor (35 + s.cfg.digitCount * (34 + s.cfg.dwellCycles)) →
    (∀ k, 1 ≤ k → k ≤ 34 + s.cfg.digitCount * (34 + s.cfg.dwellCycles) → ∃ t, run k s = .next t ∧ t.st ≠ .idle) ∧
    ∃ t, run (35 + s.cfg.digitCount * (34 + s.cfg.dwellCycles)) s = .next t ∧ t.st = .idle ∧ t.mode = .none ∧
      t.latchO = true ∧ t.sclkO = false ∧ t.sdataO = false ∧ t.out = 0#16 ∧ t.fb = s.fb

/-- 42_driver.md R120, 60_exceptions.md R179, 70_reset_and_hazards.md R194, R196: a SHOW lights the digits in order: digit
`i` shows exactly the logical pattern of the entry that FB held at acceptance, alone, in the `34 + DW` cycles from cycle
`35 + i × (34 + DW)` after acceptance on. -/
def Obligations.ShowLightsEachDigitInTurn : Prop :=
  ∀ s : State, s.st = .idle → s.port.cmdValid = true → decode s.port.cmd = .ok .showOnce → 1 ≤ s.cfg.dwellCycles →
    s.noResetFor (35 + s.cfg.digitCount * (34 + s.cfg.dwellCycles)) →
    ∀ (i : Fin 8) (k : Nat), i.val < s.cfg.digitCount → k < 34 + s.cfg.dwellCycles →
      ∃ t, run (35 + i.val * (34 + s.cfg.dwellCycles) + k) s = .next t ∧
        ∀ (j seg : Fin 8), j.val < s.cfg.digitCount →
          t.lit j.val seg = (decide (j = i) && (s.fb[i] ^^^ s.cfg.blank).getLsbD seg.val)

/-- 42_driver.md R132, R128, R124: a SHOWFOR accepted with no reset after it makes `n` passes, `n = 0` if `dur = 0` and
`(dur − 1) / P` otherwise; CHECK number `k ≤ n` comes after `1 + kP` cycles and reads `elapsed = kP`, and is followed by a
pass exactly when `(k + 1)P < dur`; the passes end before `dur`; the block is ready after `36 + nP` cycles and not before,
with `elapsed = nP + 35`, at most 35 more than `dur`, dark, the frame buffer as it was. -/
def Obligations.ShowForMakesItsPassesAndEndsDark : Prop :=
  ∀ (s : State) (d n p : Nat), s.st = .idle → s.port.cmdValid = true → decode s.port.cmd = .ok (.showFor d) →
    1 ≤ s.cfg.dwellCycles → p = 1 + s.cfg.digitCount * (34 + s.cfg.dwellCycles) →
    n = (if d * s.cfg.cyclesPerUnit = 0 then 0 else (d * s.cfg.cyclesPerUnit - 1) / p) →
    s.noResetFor (36 + n * p) →
    (∀ k, k ≤ n → ∃ t, run (1 + k * p) s = .next t ∧ t.st = .check ∧ t.elapsed = k * p) ∧
    (∀ k, k < n ↔ (k + 1) * p < d * s.cfg.cyclesPerUnit) ∧ (1 ≤ n → n * p < d * s.cfg.cyclesPerUnit) ∧
    (∀ k, 1 ≤ k → k ≤ 35 + n * p → ∃ t, run k s = .next t ∧ t.st ≠ .idle) ∧
    ∃ t, run (36 + n * p) s = .next t ∧ t.st = .idle ∧ (t.port.rst = false → t.cmdReady = true) ∧ t.mode = .none ∧
      t.elapsed = n * p + 35 ∧ t.elapsed ≤ d * s.cfg.cyclesPerUnit + 35 ∧
      t.latchO = true ∧ t.sclkO = false ∧ t.sdataO = false ∧ t.out = 0#16 ∧ t.dark ∧ t.fb = s.fb

/-- 70_reset_and_hazards.md R194: a digit's frame stays on the chain's outputs for `34 + DW` cycles from its latch, and for
`35 + DW` when it is the last digit of a pass of a timed repeat. -/
def Obligations.DigitIsHeldUntilNextLatch : Prop :=
  ∀ s : State, s.Legal → s.st = .dwell → s.cnt = s.cfg.dwellCycles →
    s.noResetFor (35 + s.cfg.dwellCycles) →
    (∀ k, k < 34 + s.cfg.dwellCycles → ∃ t, run k s = .next t ∧ t.out = s.out) ∧
    (s.mode = .timed → s.dig.toNat + 1 = s.cfg.digitCount → ∃ t, run (34 + s.cfg.dwellCycles) s = .next t ∧ t.out = s.out)

/-- 30_encoding.md R70 and 70_reset_and_hazards.md R192: BLANK in IDLE, with no reset after it and whatever the chain
holds, is done after 36 cycles, sends no frame but the clear frame (the outputs change in the last cycle only), and leaves
nothing lit and the frame buffer as it was. -/
def Obligations.BlankDarkensTheDisplay : Prop :=
  ∀ (s : State) (i : Instr), Pseudo.blank.expand s.cfg.digitCount = [i] → s.st = .idle → s.port.cmdValid = true →
    s.port.cmd = encode i → s.noResetFor 36 →
    (∀ k, k ≤ 35 → ∃ t, run k s = .next t ∧ t.out = s.out) ∧
    ∃ t, run 36 s = .next t ∧ t.st = .idle ∧ t.out = 0#16 ∧ t.dark ∧ t.fb = s.fb

/-! ### The ROM and the display -/

/-- 40_rom.md R83: WIRE is the pattern itself under CC and its complement under CA. -/
def Obligations.PolarityInvertsEveryPattern : Prop :=
  ∀ (cfg : Config) (p : Byte),
    (cfg.polarity = .cc → cfg.wire p = p) ∧ (cfg.polarity = .ca → cfg.wire p = ~~~p)

/-- 40_rom.md R86, R87: PT_ON and PT_OFF leave bits 7 to 1 alone and put bit 0 at its on and off level: 1 and 0 under CC,
0 and 1 under CA; a ROM pattern has its point off already, with a GLYPH that lights no point (R82). -/
def Obligations.PointBitLevels : Prop :=
  ∀ (cfg : Config) (b : Byte),
    (∀ k : Fin 8, k ≠ 0 → (cfg.ptOn b).getLsbD k.val = b.getLsbD k.val ∧ (cfg.ptOff b).getLsbD k.val = b.getLsbD k.val) ∧
    (cfg.polarity = .cc → (cfg.ptOn b).getLsbD 0 = true ∧ (cfg.ptOff b).getLsbD 0 = false) ∧
    (cfg.polarity = .ca → (cfg.ptOn b).getLsbD 0 = false ∧ (cfg.ptOff b).getLsbD 0 = true) ∧
    (cfg.glyphPointFree = true → ∀ ch, cfg.ptOff (cfg.rom ch) = cfg.rom ch)

/-- 40_rom.md R89: XOR with the blank pattern gives the glyph back under both polarities; the ROM under CA is the complement
of the ROM under CC; the point operations absorb each other; with a point-free GLYPH the ROM's point is off. -/
def Obligations.RomDerivedProperties : Prop :=
  ∀ (cfg : Config) (ch b : Byte),
    cfg.rom ch ^^^ cfg.wire 0x00#8 = cfg.glyphOf ch ∧
    (cfg.polarity = .ca → cfg.rom ch = ~~~({ cfg with polarity := .cc }.rom ch)) ∧
    cfg.ptOff (cfg.ptOn b) = cfg.ptOff b ∧ cfg.ptOn (cfg.ptOff b) = cfg.ptOn b ∧
    (cfg.glyphPointFree = true → (cfg.rom ch).getLsbD 0 = match cfg.polarity with | .cc => false | .ca => true)

/-- 40_rom.md R81, R82, R85: with a GLYPH that follows the classes, a code of no class gives the blank pattern and the
two cases of a letter give the same pattern. -/
def Obligations.RomFollowsCharacterClasses : Prop :=
  ∀ (cfg : Config) (ch : Byte), cfg.glyphByClass = true →
    (charClass ch = .other → cfg.rom ch = cfg.wire 0x00#8) ∧
    (0x41 ≤ ch.toNat → ch.toNat ≤ 0x5A → cfg.rom (ch + 0x20#8) = cfg.rom ch)

/-- 40_rom.md R82: the default table is lawful: no glyph lights the point, letters fold, every other code is blank. -/
def Obligations.DefaultGlyphsAreLawful : Prop :=
  ∀ cfg : Config, cfg.glyph = defaultGlyphTable → cfg.glyphPointFree = true ∧ cfg.glyphByClass = true

/-- 60_exceptions.md R177, R178: the received bytes bit by bit under each bit order, the index and segment byte under each
byte order; outputs that hold frame word `w` are received as its two bytes; a digit below C lights a segment on the levels
of its polarity, and no index bit from C on drives anything. -/
def Obligations.ReceivedBytesAreTheSentBytes : Prop :=
  ∀ (cfg : Config) (w out : FrameWord),
    (∀ b : Fin 8, (firstRx cfg out).getLsbD b.val =
        (match cfg.bitOrder with | .msbFirst => out.getLsbD (8 + b.val) | .lsbFirst => out.getLsbD (15 - b.val)) ∧
      (secondRx cfg out).getLsbD b.val =
        (match cfg.bitOrder with | .msbFirst => out.getLsbD b.val | .lsbFirst => out.getLsbD (7 - b.val))) ∧
    (cfg.firstByte = .index → indexRx cfg out = firstRx cfg out ∧ segRx cfg out = secondRx cfg out) ∧
    (cfg.firstByte = .segment → indexRx cfg out = secondRx cfg out ∧ segRx cfg out = firstRx cfg out) ∧
    (holdsFrame cfg out w → firstRx cfg out = w.extractLsb' 8 8 ∧ secondRx cfg out = w.extractLsb' 0 8) ∧
    (∀ i seg, cfg.digitCount ≤ i → lit cfg out i seg = false) ∧
    (∀ i seg, i < cfg.digitCount →
      (cfg.polarity = .ca → (lit cfg out i seg = true ↔
        (indexRx cfg out).getLsbD i = true ∧ (segRx cfg out).getLsbD seg = false)) ∧
      (cfg.polarity = .cc → (lit cfg out i seg = true ↔
        (indexRx cfg out).getLsbD i = false ∧ (segRx cfg out).getLsbD seg = true)))

/-- 60_exceptions.md R179, R178: outputs that hold the frame of digit `i` light exactly the segments of its logical pattern,
on digit `i` alone, under every polarity, bit order and byte order. -/
def Obligations.DigitFrameLightsItsDigitAlone : Prop :=
  ∀ (cfg : Config) (out : FrameWord) (i j : Nat) (pattern : Byte) (seg : Fin 8),
    i < cfg.digitCount → j < cfg.digitCount →
    holdsFrame cfg out (frameWord cfg (indexByte cfg i) pattern) →
    lit cfg out j seg.val = (decide (j = i) && (pattern ^^^ cfg.blank).getLsbD seg.val)

/-- 60_exceptions.md R179 and 42_driver.md R124: all-zero outputs light nothing, under every parameter. -/
def Obligations.ClearFrameLightsNothing : Prop :=
  ∀ s : State, s.out = 0#16 → s.dark

/-- 60_exceptions.md R179 on the machine: in every legal state in DWELL, exactly the segments of the logical
pattern of `FB[dig]` are lit, on digit `dig` alone. -/
def Obligations.DwellShowsTheCurrentDigit : Prop :=
  ∀ s : State, s.Legal → s.st = .dwell → ∀ (j seg : Fin 8), j.val < s.cfg.digitCount →
    s.lit j.val seg = (decide (j.val = s.dig.toNat) && ((s.fb[s.dig.toNat]'s.dig.isLt) ^^^ s.cfg.blank).getLsbD seg.val)

/-- 70_reset_and_hazards.md R195: a cycle of a legal state in IDLE with the latch pin high (so after a show has ended)
and no reset starts dark, ends dark and leaves the latch pin high, whatever the host presents. -/
def Obligations.DisplayStaysDarkInIdle : Prop :=
  ∀ s t : State, s.Legal → s.st = .idle → s.latchO = true → s.port.rst = false → step s = .next t →
    s.dark ∧ t.dark ∧ t.latchO = true

/-! ### The host reference -/

/-- 44_host_set_print.md R159 (1): `countCharacters(−v) = 1 + countCharacters(v)` for every `v ≥ 1`. -/
def Obligations.NegationAddsOneCharacter : Prop :=
  ∀ v : Int, 1 ≤ v → countCharacters (-v) = 1 + countCharacters v

/-- 44_host_set_print.md R151: `countCharacters` is 1 from 0 to 9, 2 from −9 to −1, and one more than that of the quotient
by ten, truncated toward zero, from magnitude ten on. -/
def Obligations.CountCharactersFollowsItsRecursion : Prop :=
  (∀ v : Int, (0 ≤ v → v ≤ 9 → countCharacters v = 1) ∧ (-9 ≤ v → v ≤ -1 → countCharacters v = 2) ∧
    (10 ≤ v.natAbs → countCharacters v = 1 + countCharacters (v.tdiv 10))) ∧
  countCharacters (-123) = 4

/-- 44_host_set_print.md R152: `chars(Integer(v))` is `'-'` before the digits of the magnitude of a negative `v` and the
digits alone otherwise; every digit is a digit code and they read back as the magnitude; only 0 starts with a zero; the
length is `countCharacters(v)`. -/
def Obligations.IntegerCharsAreTheMinimalDecimal : Prop :=
  ∀ v : Int, ∃ digits : List Byte,
    integerChars v = (if v < 0 then [0x2D#8] else []) ++ digits ∧
    (∀ c ∈ digits, 0x30 ≤ c.toNat ∧ c.toNat ≤ 0x39) ∧
    digits.foldl (fun n c => n * 10 + (c.toNat - 0x30)) 0 = v.natAbs ∧
    (digits.head? = some 0x30#8 → v = 0 ∧ digits = [0x30#8]) ∧
    (integerChars v).length = countCharacters v

/-- 44_host_set_print.md R159 (3), (4): a sequence of exactly C characters is placed as it is under every alignment, and
under Right a longer one keeps its C rightmost characters. -/
def Obligations.LayoutKeepsFullAndRightmost : Prop :=
  ∀ (c : Nat) (chars : List Byte),
    (chars.length = c → ∀ a, formatted c chars a = chars) ∧
    (c ≤ chars.length → formatted c chars .right = chars.drop (chars.length - c))

/-- 44_host_set_print.md R155, R156, R157: on any display of at most 8 digits, SET is a well-formed LOAD whose characters
below C are the formatted ones and spaces above, with the point of the value. -/
def Obligations.SetExpandsToItsLoad : Prop :=
  ∀ (c : Nat) (v : HostValue) (a : Machine.Alignment), c ≤ 8 → (expandSet c v a).wf = true ∧
    ∃ pv pi chars, expandSet c v a = .load pv pi chars ∧
      (∀ p : Fin 8, p.val < c → (formatted c v.chars a)[p.val]? = some chars[p]) ∧
      (∀ p : Fin 8, c ≤ p.val → chars[p] = 0x20#8) ∧
      (pv = true → pi < c ∧ pointIndex c v a = some pi) ∧ (pv = false → pi = 0 ∧ pointIndex c v a = none)
end

