-- ==== Sys2Proof/Laws/Decode.lean ====
section
/-! SUPPORT. The fields of a command word put together from its fields, the characters and AUX of LOAD, and the decoder
opcode by opcode. -/

namespace Sys2Proof

@[simp] theorem opField_wordOf (op aux : BitVec 8) (pay : BitVec 64) : opField (wordOf op aux pay) = op := by
  apply BitVec.eq_of_getLsbD_eq
  intro i hi
  have h1 : ¬ (72 + i < 64) := by omega
  have h2 : ¬ (72 + i - 64 < 8) := by omega
  have h3 : 72 + i - 64 - 8 = i := by omega
  simp only [opField, wordOf, BitVec.getLsbD_extractLsb', BitVec.getLsbD_append, hi, h1, h2, h3, decide_true,
    Bool.true_and, if_false]

@[simp] theorem auxField_wordOf (op aux : BitVec 8) (pay : BitVec 64) : auxField (wordOf op aux pay) = aux := by
  apply BitVec.eq_of_getLsbD_eq
  intro i hi
  have h1 : ¬ (64 + i < 64) := by omega
  have h2 : 64 + i - 64 = i := by omega
  simp only [auxField, wordOf, BitVec.getLsbD_extractLsb', BitVec.getLsbD_append, hi, h1, h2, decide_true,
    Bool.true_and, if_false, if_true]

@[simp] theorem payField_wordOf (op aux : BitVec 8) (pay : BitVec 64) : payField (wordOf op aux pay) = pay := by
  apply BitVec.eq_of_getLsbD_eq
  intro i hi
  simp only [payField, wordOf, BitVec.getLsbD_extractLsb', BitVec.getLsbD_append, Nat.zero_add, hi, decide_true,
    Bool.true_and, if_true]

/-- A command word is its three fields put together. -/
theorem wordOf_fields (w : CmdWord) : wordOf (opField w) (auxField w) (payField w) = w := by
  apply BitVec.eq_of_getLsbD_eq
  intro i hi
  simp only [wordOf, opField, auxField, payField, BitVec.getLsbD_append, BitVec.getLsbD_extractLsb', Nat.zero_add]
  by_cases h1 : i < 64
  · simp only [h1, decide_true, Bool.true_and, if_true]
  · by_cases h2 : i - 64 < 8
    · have h3 : 64 + (i - 64) = i := by omega
      simp only [h1, h2, h3, decide_true, Bool.true_and, if_true, if_false]
    · have h3 : 72 + (i - 64 - 8) = i := by omega
      have h4 : i - 64 - 8 < 8 := by omega
      simp only [h1, h2, h3, h4, decide_true, Bool.true_and, if_false]

@[simp] theorem getElem_charsOf (pay : BitVec 64) (i : Nat) (hi : i < 8) :
    (charsOf pay)[i] = pay.extractLsb' (8 * i) 8 := by
  simp [charsOf]

/-- Byte `i` of LOAD's payload is `CH_i`. -/
theorem extract_payOf (chars : Vector Byte 8) (i : Nat) (hi : i < 8) :
    (payOf chars).extractLsb' (8 * i) 8 = chars[i] := by
  apply BitVec.eq_of_getLsbD_eq
  intro k hk
  simp only [payOf, BitVec.getLsbD_extractLsb', hk, decide_true, Bool.true_and, BitVec.getLsbD_append]
  interval_cases i <;> (repeat' split) <;> first | omega | (congr 1; omega)

theorem charsOf_payOf (chars : Vector Byte 8) : charsOf (payOf chars) = chars := by
  ext i hi : 1
  rw [getElem_charsOf, extract_payOf]

theorem payOf_charsOf (pay : BitVec 64) : payOf (charsOf pay) = pay := by
  apply BitVec.eq_of_getLsbD_eq
  intro i hi
  simp only [payOf, getElem_charsOf, BitVec.getLsbD_append, BitVec.getLsbD_extractLsb']
  repeat' split
  all_goals rw [decide_eq_true (by omega), Bool.true_and]; congr 1; omega

/-- The three fields of LOAD's AUX read back. -/
theorem loadAux_fields (pv : Bool) (pi : Nat) (h : pi < 2 ^ 3) :
    (loadAux pv pi).getLsbD 7 = pv ∧ (loadAux pv pi).extractLsb' 3 4 = 0#4 ∧
      ((loadAux pv pi).extractLsb' 0 3).toNat = pi := by
  have key : ∀ (b : Bool) (n : Fin 8), (loadAux b n.val).getLsbD 7 = b ∧
      (loadAux b n.val).extractLsb' 3 4 = 0#4 ∧ ((loadAux b n.val).extractLsb' 0 3).toNat = n.val := by decide
  exact key pv ⟨pi, h⟩

/-- LOAD's AUX is made of its fields when bits 6 to 3 are zero. -/
theorem loadAux_of_fields (aux : BitVec 8) (h : aux.extractLsb' 3 4 = 0#4) :
    loadAux (aux.getLsbD 7) (aux.extractLsb' 0 3).toNat = aux := by
  have key : ∀ a : BitVec 8, a.extractLsb' 3 4 = 0#4 → loadAux (a.getLsbD 7) (a.extractLsb' 0 3).toNat = a := by
    decide +kernel
  exact key aux h

/-- SHOWFOR's payload is made of DURATION when its high half is zero. -/
theorem duration_of_fields (pay : BitVec 64) (h : pay.extractLsb' 32 32 = 0#32) :
    (0#32 ++ BitVec.ofNat 32 (pay.extractLsb' 0 32).toNat : BitVec 64) = pay := by
  apply BitVec.eq_of_getLsbD_eq
  intro i hi
  rw [BitVec.ofNat_toNat, BitVec.setWidth_eq, BitVec.getLsbD_append]
  split
  · simp only [BitVec.getLsbD_extractLsb', *, decide_true, Bool.true_and, Nat.zero_add]
  · have hb := congrArg (fun v => v.getLsbD (i - 32)) h
    have h1 : i - 32 < 32 := by omega
    have h2 : 32 + (i - 32) = i := by omega
    simp only [BitVec.getLsbD_extractLsb', h1, h2, decide_true, Bool.true_and] at hb
    rw [hb]

end Sys2Proof
end

