-- ==== Sys2Proof/Laws/Rom.lean ====
section
/-! SUPPORT. Bits of the polarity and point operations, and the lawfulness checks of GLYPH entry by entry. -/

namespace Sys2Proof

theorem Config.digitCount_pos (cfg : Config) : 1 ≤ cfg.digitCount := by
  unfold Config.digitCount; omega

theorem Config.digitCount_le (cfg : Config) : cfg.digitCount ≤ 8 := by
  unfold Config.digitCount; omega

@[simp] theorem Config.wire_cc {cfg : Config} (h : cfg.polarity = .cc) (p : Byte) : cfg.wire p = p := by
  simp [Config.wire, h]

@[simp] theorem Config.wire_ca {cfg : Config} (h : cfg.polarity = .ca) (p : Byte) : cfg.wire p = ~~~p := by
  simp [Config.wire, h]

/-- Polarity is undone by XOR with the blank pattern. -/
theorem Config.wire_xor_blank (cfg : Config) (p : Byte) : cfg.wire p ^^^ cfg.blank = p := by
  unfold Config.blank Config.wire
  cases cfg.polarity with
  | cc => simp
  | ca =>
    apply BitVec.eq_of_getLsbD_eq
    intro i hi
    simp only [BitVec.getLsbD_xor, BitVec.getLsbD_not, hi]
    simp

theorem Config.glyphPointFree_apply {cfg : Config} (h : cfg.glyphPointFree = true) (ch : Byte) :
    (cfg.glyphOf ch).getLsbD 0 = false := by
  have h' := List.all_eq_true.mp h ch.toNat (List.mem_range.mpr ch.isLt)
  simpa using h'

theorem Config.glyphByClass_other {cfg : Config} (h : cfg.glyphByClass = true) {ch : Byte}
    (hc : Machine.charClass ch = .other) : cfg.glyphOf ch = 0x00#8 := by
  have h' := List.all_eq_true.mp (Bool.and_eq_true_iff.mp h).2 ch.toNat (List.mem_range.mpr ch.isLt)
  simpa [hc] using h'

theorem Config.glyphByClass_letter {cfg : Config} (h : cfg.glyphByClass = true) {k : Nat} (hk : k < 26) :
    cfg.glyphOf (BitVec.ofNat 8 (0x41 + k)) = cfg.glyphOf (BitVec.ofNat 8 (0x61 + k)) := by
  have h' := List.all_eq_true.mp (Bool.and_eq_true_iff.mp h).1 k (List.mem_range.mpr hk)
  simpa using h'

/-- What a lawful configuration gives. -/
theorem Config.wf_iff (cfg : Config) :
    cfg.wf = true ↔ 1 ≤ cfg.cyclesPerUnit ∧ cfg.cyclesPerUnit < 2 ^ 32 ∧ 1 ≤ cfg.dwellCycles ∧
      cfg.glyphPointFree = true ∧ cfg.glyphByClass = true := by
  simp [Config.wf, and_assoc]

end Sys2Proof
end

