-- ==== Sys2Proof/Laws/State.lean ====
section
/-! SUPPORT. One lemma per field per update of the state, true by rfl: no later proof unfolds a record update. -/

namespace Sys2Proof.Machine

/-! ### nextCycle -/

@[simp] theorem State.nextCycle_cfg (s : State) : (s.nextCycle).cfg = s.cfg := rfl
@[simp] theorem State.nextCycle_fb (s : State) : (s.nextCycle).fb = s.fb := rfl
@[simp] theorem State.nextCycle_st (s : State) : (s.nextCycle).st = s.st := rfl
@[simp] theorem State.nextCycle_mode (s : State) : (s.nextCycle).mode = s.mode := rfl
@[simp] theorem State.nextCycle_clr (s : State) : (s.nextCycle).clr = s.clr := rfl
@[simp] theorem State.nextCycle_dig (s : State) : (s.nextCycle).dig = s.dig := rfl
@[simp] theorem State.nextCycle_bit (s : State) : (s.nextCycle).bit = s.bit := rfl
@[simp] theorem State.nextCycle_cnt (s : State) : (s.nextCycle).cnt = s.cnt := rfl
@[simp] theorem State.nextCycle_elapsed (s : State) : (s.nextCycle).elapsed = s.elapsed := rfl
@[simp] theorem State.nextCycle_dur (s : State) : (s.nextCycle).dur = s.dur := rfl
@[simp] theorem State.nextCycle_sreg (s : State) : (s.nextCycle).sreg = s.sreg := rfl
@[simp] theorem State.nextCycle_latchO (s : State) : (s.nextCycle).latchO = s.latchO := rfl
@[simp] theorem State.nextCycle_sclkO (s : State) : (s.nextCycle).sclkO = s.sclkO := rfl
@[simp] theorem State.nextCycle_sdataO (s : State) : (s.nextCycle).sdataO = s.sdataO := rfl
@[simp] theorem State.nextCycle_stage (s : State) : (s.nextCycle).stage = s.stage := rfl
@[simp] theorem State.nextCycle_out (s : State) : (s.nextCycle).out = s.out := rfl
@[simp] theorem State.nextCycle_inputs (s : State) : (s.nextCycle).inputs = s.inputs.tail := rfl
@[simp] theorem State.nextCycle_draw (s : State) : (s.nextCycle).draw = s.draw := rfl

/-! ### mapFb -/

@[simp] theorem State.mapFb_cfg (s : State) (f : Fin 8 → Byte → Byte) : (s.mapFb f).cfg = s.cfg := rfl
@[simp] theorem State.mapFb_fb (s : State) (f : Fin 8 → Byte → Byte) : (s.mapFb f).fb = Vector.ofFn fun i => if i.val < s.cfg.digitCount then f i s.fb[i] else s.fb[i] := rfl
@[simp] theorem State.mapFb_st (s : State) (f : Fin 8 → Byte → Byte) : (s.mapFb f).st = s.st := rfl
@[simp] theorem State.mapFb_mode (s : State) (f : Fin 8 → Byte → Byte) : (s.mapFb f).mode = s.mode := rfl
@[simp] theorem State.mapFb_clr (s : State) (f : Fin 8 → Byte → Byte) : (s.mapFb f).clr = s.clr := rfl
@[simp] theorem State.mapFb_dig (s : State) (f : Fin 8 → Byte → Byte) : (s.mapFb f).dig = s.dig := rfl
@[simp] theorem State.mapFb_bit (s : State) (f : Fin 8 → Byte → Byte) : (s.mapFb f).bit = s.bit := rfl
@[simp] theorem State.mapFb_cnt (s : State) (f : Fin 8 → Byte → Byte) : (s.mapFb f).cnt = s.cnt := rfl
@[simp] theorem State.mapFb_elapsed (s : State) (f : Fin 8 → Byte → Byte) : (s.mapFb f).elapsed = s.elapsed := rfl
@[simp] theorem State.mapFb_dur (s : State) (f : Fin 8 → Byte → Byte) : (s.mapFb f).dur = s.dur := rfl
@[simp] theorem State.mapFb_sreg (s : State) (f : Fin 8 → Byte → Byte) : (s.mapFb f).sreg = s.sreg := rfl
@[simp] theorem State.mapFb_latchO (s : State) (f : Fin 8 → Byte → Byte) : (s.mapFb f).latchO = s.latchO := rfl
@[simp] theorem State.mapFb_sclkO (s : State) (f : Fin 8 → Byte → Byte) : (s.mapFb f).sclkO = s.sclkO := rfl
@[simp] theorem State.mapFb_sdataO (s : State) (f : Fin 8 → Byte → Byte) : (s.mapFb f).sdataO = s.sdataO := rfl
@[simp] theorem State.mapFb_stage (s : State) (f : Fin 8 → Byte → Byte) : (s.mapFb f).stage = s.stage := rfl
@[simp] theorem State.mapFb_out (s : State) (f : Fin 8 → Byte → Byte) : (s.mapFb f).out = s.out := rfl
@[simp] theorem State.mapFb_inputs (s : State) (f : Fin 8 → Byte → Byte) : (s.mapFb f).inputs = s.inputs := rfl
@[simp] theorem State.mapFb_draw (s : State) (f : Fin 8 → Byte → Byte) : (s.mapFb f).draw = s.draw := rfl

/-! ### drivePins -/

@[simp] theorem State.drivePins_cfg (s : State) (l c d : Bool) : (s.drivePins l c d).cfg = s.cfg := rfl
@[simp] theorem State.drivePins_fb (s : State) (l c d : Bool) : (s.drivePins l c d).fb = s.fb := rfl
@[simp] theorem State.drivePins_st (s : State) (l c d : Bool) : (s.drivePins l c d).st = s.st := rfl
@[simp] theorem State.drivePins_mode (s : State) (l c d : Bool) : (s.drivePins l c d).mode = s.mode := rfl
@[simp] theorem State.drivePins_clr (s : State) (l c d : Bool) : (s.drivePins l c d).clr = s.clr := rfl
@[simp] theorem State.drivePins_dig (s : State) (l c d : Bool) : (s.drivePins l c d).dig = s.dig := rfl
@[simp] theorem State.drivePins_bit (s : State) (l c d : Bool) : (s.drivePins l c d).bit = s.bit := rfl
@[simp] theorem State.drivePins_cnt (s : State) (l c d : Bool) : (s.drivePins l c d).cnt = s.cnt := rfl
@[simp] theorem State.drivePins_elapsed (s : State) (l c d : Bool) : (s.drivePins l c d).elapsed = s.elapsed := rfl
@[simp] theorem State.drivePins_dur (s : State) (l c d : Bool) : (s.drivePins l c d).dur = s.dur := rfl
@[simp] theorem State.drivePins_sreg (s : State) (l c d : Bool) : (s.drivePins l c d).sreg = s.sreg := rfl
@[simp] theorem State.drivePins_latchO (s : State) (l c d : Bool) : (s.drivePins l c d).latchO = l := rfl
@[simp] theorem State.drivePins_sclkO (s : State) (l c d : Bool) : (s.drivePins l c d).sclkO = c := rfl
@[simp] theorem State.drivePins_sdataO (s : State) (l c d : Bool) : (s.drivePins l c d).sdataO = d := rfl
@[simp] theorem State.drivePins_stage (s : State) (l c d : Bool) : (s.drivePins l c d).stage = if !s.sclkO && c then shiftIn s.stage d else s.stage := rfl
@[simp] theorem State.drivePins_out (s : State) (l c d : Bool) : (s.drivePins l c d).out = if !s.latchO && l then s.stage else s.out := rfl
@[simp] theorem State.drivePins_inputs (s : State) (l c d : Bool) : (s.drivePins l c d).inputs = s.inputs := rfl
@[simp] theorem State.drivePins_draw (s : State) (l c d : Bool) : (s.drivePins l c d).draw = s.draw := rfl

/-! ### endShow -/

@[simp] theorem State.endShow_cfg (s : State) : (s.endShow).cfg = s.cfg := rfl
@[simp] theorem State.endShow_fb (s : State) : (s.endShow).fb = s.fb := rfl
@[simp] theorem State.endShow_st (s : State) : (s.endShow).st = .idle := rfl
@[simp] theorem State.endShow_mode (s : State) : (s.endShow).mode = .none := rfl
@[simp] theorem State.endShow_clr (s : State) : (s.endShow).clr = false := rfl
@[simp] theorem State.endShow_dig (s : State) : (s.endShow).dig = 0#3 := rfl
@[simp] theorem State.endShow_bit (s : State) : (s.endShow).bit = 0#4 := rfl
@[simp] theorem State.endShow_cnt (s : State) : (s.endShow).cnt = s.cnt := rfl
@[simp] theorem State.endShow_elapsed (s : State) : (s.endShow).elapsed = s.elapsed := rfl
@[simp] theorem State.endShow_dur (s : State) : (s.endShow).dur = s.dur := rfl
@[simp] theorem State.endShow_sreg (s : State) : (s.endShow).sreg = s.sreg := rfl
@[simp] theorem State.endShow_latchO (s : State) : (s.endShow).latchO = s.latchO := rfl
@[simp] theorem State.endShow_sclkO (s : State) : (s.endShow).sclkO = s.sclkO := rfl
@[simp] theorem State.endShow_sdataO (s : State) : (s.endShow).sdataO = s.sdataO := rfl
@[simp] theorem State.endShow_stage (s : State) : (s.endShow).stage = s.stage := rfl
@[simp] theorem State.endShow_out (s : State) : (s.endShow).out = s.out := rfl
@[simp] theorem State.endShow_inputs (s : State) : (s.endShow).inputs = s.inputs := rfl
@[simp] theorem State.endShow_draw (s : State) : (s.endShow).draw = s.draw := rfl

/-! ### driverStep: `elapsed` aside, a driver step is its case -/

@[simp] theorem State.driverStep_cfg (s : State) : s.driverStep.cfg = s.driveCase.cfg := rfl
@[simp] theorem State.driverStep_fb (s : State) : s.driverStep.fb = s.driveCase.fb := rfl
@[simp] theorem State.driverStep_st (s : State) : s.driverStep.st = s.driveCase.st := rfl
@[simp] theorem State.driverStep_mode (s : State) : s.driverStep.mode = s.driveCase.mode := rfl
@[simp] theorem State.driverStep_clr (s : State) : s.driverStep.clr = s.driveCase.clr := rfl
@[simp] theorem State.driverStep_dig (s : State) : s.driverStep.dig = s.driveCase.dig := rfl
@[simp] theorem State.driverStep_bit (s : State) : s.driverStep.bit = s.driveCase.bit := rfl
@[simp] theorem State.driverStep_cnt (s : State) : s.driverStep.cnt = s.driveCase.cnt := rfl
@[simp] theorem State.driverStep_elapsed (s : State) : s.driverStep.elapsed = s.nextElapsed := rfl
@[simp] theorem State.driverStep_dur (s : State) : s.driverStep.dur = s.driveCase.dur := rfl
@[simp] theorem State.driverStep_sreg (s : State) : s.driverStep.sreg = s.driveCase.sreg := rfl
@[simp] theorem State.driverStep_latchO (s : State) : s.driverStep.latchO = s.driveCase.latchO := rfl
@[simp] theorem State.driverStep_sclkO (s : State) : s.driverStep.sclkO = s.driveCase.sclkO := rfl
@[simp] theorem State.driverStep_sdataO (s : State) : s.driverStep.sdataO = s.driveCase.sdataO := rfl
@[simp] theorem State.driverStep_stage (s : State) : s.driverStep.stage = s.driveCase.stage := rfl
@[simp] theorem State.driverStep_out (s : State) : s.driverStep.out = s.driveCase.out := rfl
@[simp] theorem State.driverStep_inputs (s : State) : s.driverStep.inputs = s.driveCase.inputs := rfl
@[simp] theorem State.driverStep_draw (s : State) : s.driverStep.draw = s.driveCase.draw := rfl

end Sys2Proof.Machine
end

