-- ==== Sys2Proof/Laws/Driver.lean ====
section
/-! SUPPORT. The driver step case by case, said once (42_driver.md R130), and the chain's answer to a pin change. -/

namespace Sys2Proof.Machine

/-- Everything one case of the driver's state machine can do, guards included. -/
inductive DriveCase (s : State) : State → Prop where
  | checkPass (hst : s.st = .check) (h : s.elapsed + s.cfg.passPeriod < s.dur) :
      DriveCase s { s with dig := 0#3, clr := false, st := .latchLo }
  | checkClear (hst : s.st = .check) (h : s.dur ≤ s.elapsed + s.cfg.passPeriod) :
      DriveCase s { s with clr := true, st := .latchLo }
  | latchLo (hst : s.st = .latchLo) :
      DriveCase s { s.drivePins false false s.sdataO with sreg := s.nextWord, bit := 0#4, st := .shiftA }
  | shiftA (hst : s.st = .shiftA) :
      DriveCase s { s.drivePins s.latchO false (sbit s.cfg s.sreg s.bit.toNat) with st := .shiftB }
  | shiftBLast (hst : s.st = .shiftB) (h : s.bit = 15#4) :
      DriveCase s { s.drivePins s.latchO true s.sdataO with st := .latchHi }
  | shiftBMore (hst : s.st = .shiftB) (h : s.bit ≠ 15#4) :
      DriveCase s { s.drivePins s.latchO true s.sdataO with bit := s.bit + 1#4, st := .shiftA }
  | latchHiClear (hst : s.st = .latchHi) (h : s.clr = true) :
      DriveCase s (s.drivePins true false s.sdataO).endShow
  | latchHiDigit (hst : s.st = .latchHi) (h : s.clr = false) :
      DriveCase s { s.drivePins true false s.sdataO with cnt := s.cfg.dwellCycles, st := .dwell }
  | dwellOn (hst : s.st = .dwell) (h : 1 < s.cnt) : DriveCase s { s with cnt := s.cnt - 1 }
  | dwellNext (hst : s.st = .dwell) (h : s.cnt ≤ 1) (hd : s.dig.toNat + 1 < s.cfg.digitCount) :
      DriveCase s { s with cnt := 0, dig := s.dig + 1#3, st := .latchLo }
  | dwellClear (hst : s.st = .dwell) (h : s.cnt ≤ 1) (hd : s.cfg.digitCount ≤ s.dig.toNat + 1) (hm : s.mode = .once) :
      DriveCase s { s with cnt := 0, clr := true, st := .latchLo }
  | dwellCheck (hst : s.st = .dwell) (h : s.cnt ≤ 1) (hd : s.cfg.digitCount ≤ s.dig.toNat + 1) (hm : s.mode ≠ .once) :
      DriveCase s { s with cnt := 0, st := .check }

/-- A busy block's driver case is one of those listed. -/
theorem driveCase_cases (s : State) (hb : s.st ≠ .idle) : DriveCase s s.driveCase := by
  unfold State.driveCase
  split
  · exact absurd ‹_› hb
  · unfold State.driveCheck
    split
    · exact .checkPass ‹_› ‹_›
    · exact .checkClear ‹_› (Nat.not_lt.mp ‹_›)
  · exact .latchLo ‹_›
  · exact .shiftA ‹_›
  · unfold State.driveShiftB
    split
    · exact .shiftBLast ‹_› ‹_›
    · exact .shiftBMore ‹_› ‹_›
  · unfold State.driveLatchHi
    split
    · exact .latchHiClear ‹_› ‹_›
    · exact .latchHiDigit ‹_› (Bool.eq_false_iff.mpr ‹_›)
  · unfold State.driveDwell
    split
    · exact .dwellOn ‹_› ‹_›
    · split
      · exact .dwellNext ‹_› (Nat.not_lt.mp ‹_›) ‹_›
      · split
        · exact .dwellClear ‹_› (Nat.not_lt.mp ‹_›) (Nat.not_lt.mp ‹_›) ‹_›
        · exact .dwellCheck ‹_› (Nat.not_lt.mp ‹_›) (Nat.not_lt.mp ‹_›) ‹_›

/-- The driver never looks at the input ports. -/
theorem nextCycle_driveCase (s : State) : s.nextCycle.driveCase = s.driveCase.nextCycle := by
  unfold State.driveCase State.driveCheck State.driveLatchLo State.driveShiftA State.driveShiftB State.driveLatchHi
    State.driveDwell
  cases hst : s.st <;> simp only [State.nextCycle_st, hst]
  · by_cases h : s.elapsed + s.cfg.passPeriod < s.dur <;> simp [h] <;> rfl
  · rfl
  · rfl
  · by_cases h : s.bit = 15#4 <;> simp [h] <;> rfl
  · by_cases h : s.clr = true <;> simp [h] <;> rfl
  · by_cases h1 : 1 < s.cnt <;> by_cases h2 : s.dig.toNat + 1 < s.cfg.digitCount <;> by_cases h3 : s.mode = .once <;>
      simp [h1, h2, h3] <;> rfl

/-- What every driver case leaves alone. -/
theorem DriveCase.frame {s u : State} (h : DriveCase s u) :
    u.cfg = s.cfg ∧ u.fb = s.fb ∧ u.elapsed = s.elapsed ∧ u.dur = s.dur ∧ u.inputs = s.inputs ∧ u.draw = s.draw := by
  cases h <;> exact ⟨rfl, rfl, rfl, rfl, rfl, rfl⟩

/-- The pins and the chain of a driver case are those of some pin write. -/
theorem DriveCase.pins {s u : State} (h : DriveCase s u) :
    u.stage = (s.drivePins u.latchO u.sclkO u.sdataO).stage ∧ u.out = (s.drivePins u.latchO u.sclkO u.sdataO).out := by
  cases h <;> simp

/-- The chain shifts on a rise of the shift clock only, and latches on a rise of the latch pin only
(60_exceptions.md R174, R175). -/
theorem drivePins_chain (s : State) (l c d : Bool) :
    (s.sclkO = false → c = true → (s.drivePins l c d).stage = shiftIn s.stage d) ∧
    (¬ (s.sclkO = false ∧ c = true) → (s.drivePins l c d).stage = s.stage) ∧
    (s.latchO = false → l = true → (s.drivePins l c d).out = s.stage) ∧
    (¬ (s.latchO = false ∧ l = true) → (s.drivePins l c d).out = s.out) := by
  cases hs : s.sclkO <;> cases hl : s.latchO <;> cases c <;> cases l <;> simp [hs, hl]

@[simp] theorem shiftIn_zero (x : FrameWord) (d : Bool) : (shiftIn x d).getLsbD 0 = d := by
  simp [shiftIn]

theorem shiftIn_succ (x : FrameWord) (d : Bool) {m : Nat} (h0 : m ≠ 0) (hm : m < 16) :
    (shiftIn x d).getLsbD m = x.getLsbD (m - 1) := by
  unfold shiftIn
  rw [BitVec.getLsbD_shiftConcat, decide_eq_true hm, if_neg h0, Bool.true_and]

/-- Reset neither shifts nor latches the chain (70_reset_and_hazards.md R191). -/
theorem applyReset_chain (s : State) : s.applyReset.stage = s.stage ∧ s.applyReset.out = s.out := by
  simp [State.applyReset]

end Sys2Proof.Machine
end

