-- ==== Sys2Proof/Laws/PerInstr.lean ====
section
/-! SUPPORT. Statements for all commands, one lemma per constructor: the encoder's word of a well-formed command is one
that the command's own row of the opcode map admits (30_encoding.md R61). -/

namespace Sys2Proof.Laws.EncodedOpcode

/-- The word of a well-formed command meets the mask and match of the row that has its mnemonic. -/
def Statement (i : Instr) : Prop :=
  i.wf = true → ∃ r ∈ opcodeTable, r.mnemonic = i.mnemonic ∧ r.admits (encode i) = true

/-- AND with a word made of fields goes field by field. -/
theorem wordOf_and (a b : BitVec 8) (c : BitVec 64) (a' b' : BitVec 8) (c' : BitVec 64) :
    wordOf a b c &&& wordOf a' b' c' = wordOf (a &&& a') (b &&& b') (c &&& c') := by
  unfold wordOf
  rw [BitVec.and_append, BitVec.and_append]

theorem nop : Statement .nop := fun _ => ⟨_, List.mem_cons_self, rfl, by decide⟩

theorem load (pv : Bool) (pi : Nat) (chars : Vector Byte 8) : Statement (.load pv pi chars) := by
  intro h
  refine ⟨⟨"LOAD", 0xFF780000000000000000#80, 0x01000000000000000000#80⟩, by decide, rfl, ?_⟩
  have key : ∀ (b : Bool) (n : Fin 8), loadAux b n.val &&& 0x78#8 = 0#8 := by decide
  have h2 := key pv ⟨pi, by simpa [Instr.wf] using h⟩
  have hm : (0xFF780000000000000000#80 : CmdWord) = wordOf 0xFF#8 0x78#8 0#64 := by decide
  have hp : (0x01000000000000000000#80 : CmdWord) = wordOf 0x01#8 0#8 0#64 := by decide
  simp only [OpcodeRow.admits, encode, hm, hp, wordOf_and, h2, BitVec.and_zero, beq_iff_eq]
  rfl

theorem ptset (idx : Nat) : Statement (.ptset idx) := by
  intro _
  refine ⟨⟨"PTSET", 0xFF00FFFFFFFFFFFFFFFF#80, 0x02000000000000000000#80⟩, by decide, rfl, ?_⟩
  have hm : (0xFF00FFFFFFFFFFFFFFFF#80 : CmdWord) = wordOf 0xFF#8 0#8 0xFFFFFFFFFFFFFFFF#64 := by decide
  simp only [OpcodeRow.admits, encode, hm, wordOf_and, BitVec.and_zero]
  decide

theorem ptclr (idx : Nat) : Statement (.ptclr idx) := by
  intro _
  refine ⟨⟨"PTCLR", 0xFF00FFFFFFFFFFFFFFFF#80, 0x03000000000000000000#80⟩, by decide, rfl, ?_⟩
  have hm : (0xFF00FFFFFFFFFFFFFFFF#80 : CmdWord) = wordOf 0xFF#8 0#8 0xFFFFFFFFFFFFFFFF#64 := by decide
  simp only [OpcodeRow.admits, encode, hm, wordOf_and, BitVec.and_zero]
  decide

theorem showOnce : Statement .showOnce := fun _ =>
  ⟨⟨"SHOW", 0xFFFFFFFFFFFFFFFFFFFF#80, 0x04000000000000000000#80⟩, by decide, rfl, by decide⟩

theorem showFor (duration : Nat) : Statement (.showFor duration) := by
  intro _
  refine ⟨⟨"SHOWFOR", 0xFFFFFFFFFFFF00000000#80, 0x05000000000000000000#80⟩, by decide, rfl, ?_⟩
  have hm : (0xFFFFFFFFFFFF00000000#80 : CmdWord) = wordOf 0xFF#8 0xFF#8 (0xFFFFFFFF#32 ++ 0#32) := by decide
  have hd : (0#32 ++ BitVec.ofNat 32 duration : BitVec 64) &&& (0xFFFFFFFF#32 ++ 0#32) = 0#64 := by
    rw [BitVec.and_append, BitVec.zero_and, BitVec.and_zero]
    rfl
  simp only [OpcodeRow.admits, encode, hm, wordOf_and, hd]
  decide

end Sys2Proof.Laws.EncodedOpcode
end

