-- ==== Sys2Proof/Laws/Step.lean ====
section
/-! SUPPORT. Everything one clock cycle can do, said once (41_framebuffer.md R100), and what the commands leave alone. -/

namespace Sys2Proof.Machine

/-- The four things a cycle can do, guards included; `step` answers the state on the right. -/
inductive StepCase (s : State) : State → Prop where
  | reset (hr : s.port.rst = true) : StepCase s s.nextCycle.applyReset
  | command (i : Instr) (t : State) (hr : s.port.rst = false) (hi : s.st = .idle) (hv : s.port.cmdValid = true)
      (hd : decode s.port.cmd = .ok i) (he : exec i s.nextCycle = .next t) : StepCase s t
  | quiet (hr : s.port.rst = false) (hi : s.st = .idle) (hv : s.port.cmdValid = false) : StepCase s s.nextCycle
  | drive (hr : s.port.rst = false) (hb : s.st ≠ .idle) (u : State) (hu : DriveCase s.nextCycle u) :
      StepCase s { u with elapsed := s.nextElapsed }

theorem step_of_reset {s : State} (hr : s.port.rst = true) : step s = .next s.nextCycle.applyReset := by
  simp [step, hr]

theorem step_of_command {s : State} {i : Instr} (hr : s.port.rst = false) (hi : s.st = .idle)
    (hv : s.port.cmdValid = true) (hd : decode s.port.cmd = .ok i) : step s = exec i s.nextCycle := by
  simp [step, hr, hi, hv, hd]

theorem step_of_reserved {s : State} {e : DecodeError} (hr : s.port.rst = false) (hi : s.st = .idle)
    (hv : s.port.cmdValid = true) (hd : decode s.port.cmd = .error e) : step s = .refused .reservedEncoding := by
  simp [step, hr, hi, hv, hd]

theorem step_of_quiet {s : State} (hr : s.port.rst = false) (hi : s.st = .idle) (hv : s.port.cmdValid = false) :
    step s = .next s.nextCycle := by
  simp [step, hr, hi, hv]

theorem step_of_busy {s : State} (hr : s.port.rst = false) (hb : s.st ≠ .idle) :
    step s = .next s.nextCycle.driverStep := by
  simp [step, hr, hb]

/-- If `step` answers a next state, one of the four cases holds. -/
theorem step_cases {s t : State} (h : step s = .next t) : StepCase s t := by
  by_cases hr : s.port.rst = true
  · rw [step_of_reset hr] at h
    cases h
    exact .reset hr
  · have hr := Bool.eq_false_iff.mpr hr
    by_cases hi : s.st = .idle
    · by_cases hv : s.port.cmdValid = true
      · cases hd : decode s.port.cmd with
        | ok i => exact .command i t hr hi hv hd (by rwa [step_of_command hr hi hv hd] at h)
        | error e =>
          rw [step_of_reserved hr hi hv hd] at h
          cases h
      · have hv := Bool.eq_false_iff.mpr hv
        rw [step_of_quiet hr hi hv] at h
        cases h
        exact .quiet hr hi hv
    · rw [step_of_busy hr hi] at h
      cases h
      exact .drive hr hi _ (driveCase_cases s.nextCycle hi)

/-- Entry by entry, what a read-modify-write does (20_memory.md R41, R48). -/
theorem modifyEntry_getElem (s : State) (idx : Nat) (f : Byte → Byte) (i : Fin 8) :
    (s.modifyEntry idx f).fb[i] = if i.val = idx ∧ idx < s.cfg.digitCount then f s.fb[i] else s.fb[i] := by
  unfold State.modifyEntry inRange
  by_cases h : idx < s.cfg.digitCount
  · simp only [h, decide_true, if_true, and_true]
    simp
    intro h1 h2
    omega
  · simp [h]

/-- A read-modify-write touches the frame buffer alone. -/
theorem modifyEntry_frame (s : State) (idx : Nat) (f : Byte → Byte) :
    s.modifyEntry idx f = { s with fb := (s.modifyEntry idx f).fb } := by
  unfold State.modifyEntry
  split <;> rfl

/-- Every command completes. -/
theorem exec_completes (i : Instr) (s : State) : ∃ t, exec i s = .next t := by
  cases i <;> exact ⟨_, rfl⟩

/-- Everything a command can do: NOP, LOAD, PTSET and PTCLR touch the frame buffer alone and its used entries alone; SHOW
and SHOWFOR start the driver (41_framebuffer.md R101 to R104; 42_driver.md R120, R121). -/
theorem exec_cases {i : Instr} {s t : State} (h : exec i s = .next t) :
    (∃ fb, t = { s with fb := fb } ∧ ∀ j : Fin 8, s.cfg.digitCount ≤ j.val → fb[j] = s.fb[j]) ∨
    (i = .showOnce ∧ t = { s with mode := .once, clr := false, dig := 0#3, st := .latchLo }) ∨
    ∃ d, i = .showFor d ∧
      t = { s with mode := .timed, dur := scaledDuration s.cfg d, elapsed := 0, clr := false, dig := 0#3, st := .check } := by
  cases i with
  | nop =>
    cases h
    exact .inl ⟨s.fb, rfl, fun _ _ => rfl⟩
  | load pv pi chars =>
    cases h
    refine .inl ⟨_, rfl, fun j hj => ?_⟩
    simp [Nat.not_lt.mpr hj]
  | ptset idx =>
    cases h
    refine .inl ⟨_, modifyEntry_frame _ _ _, fun j hj => ?_⟩
    rw [modifyEntry_getElem, if_neg (by omega)]
  | ptclr idx =>
    cases h
    refine .inl ⟨_, modifyEntry_frame _ _ _, fun j hj => ?_⟩
    rw [modifyEntry_getElem, if_neg (by omega)]
  | showOnce =>
    cases h
    exact .inr (.inl ⟨rfl, rfl⟩)
  | showFor d =>
    cases h
    exact .inr (.inr ⟨d, rfl, rfl⟩)

/-- No command drives a pin, clocks the chain or touches a parameter or the ports (10_state.md R35). -/
theorem exec_frame {i : Instr} {s t : State} (h : exec i s = .next t) :
    t.cfg = s.cfg ∧ t.bit = s.bit ∧ t.cnt = s.cnt ∧ t.sreg = s.sreg ∧ t.latchO = s.latchO ∧ t.sclkO = s.sclkO ∧
      t.sdataO = s.sdataO ∧ t.stage = s.stage ∧ t.out = s.out ∧ t.inputs = s.inputs ∧ t.draw = s.draw := by
  obtain ⟨fb, rfl, -⟩ | ⟨-, rfl⟩ | ⟨d, -, rfl⟩ := exec_cases h <;>
    exact ⟨rfl, rfl, rfl, rfl, rfl, rfl, rfl, rfl, rfl, rfl, rfl⟩

/-! ### Runs -/

theorem run_succ {n : Nat} {s t : State} (h : step s = .next t) : run (n + 1) s = run n t := by
  simp [run, h]

/-- Runs compose. -/
theorem run_add {n m : Nat} {s t : State} (h : run n s = .next t) : run (n + m) s = run m t := by
  induction n generalizing s with
  | zero =>
    cases h
    rw [Nat.zero_add]
  | succ n ih =>
    rw [Nat.succ_add]
    cases hs : step s with
    | next u =>
      rw [run_succ hs] at h ⊢
      exact ih h
    | fault f => cases f
    | refused r => simp [run, hs] at h

end Sys2Proof.Machine
end

