-- ==== Sys2Proof/Tests/Slice0.lean ====
section
/-! SUPPORT. Tests from the vectors of 95_test_vectors.md (named in each docstring), and for every obligation with
hypotheses a witness that meets them. -/

namespace Sys2Proof.Tests

open Sys2Proof.Machine

-- One theorem after another: seventy kernel evaluations waiting for each other would need seventy large stacks.
set_option Elab.async false

/-! ### Helpers -/

/-- A configuration with the default glyphs, MSB_FIRST, INDEX and BLANK, as the vectors have it. -/
def testConfig (c : Nat) (polarity : Polarity) (dw u : Nat) : Config :=
  { Config.reference with digitCountReq := c, polarity := polarity, dwellCycles := dw, cyclesPerUnit := u }

/-- The reset state of a configuration with a known chain, presenting the given words in the coming cycles. -/
def idleState (cfg : Config) (words : List CmdWord) : State :=
  { State.resetWith cfg (words.map PortInput.command) with stage := 0xA5A5#16, out := 0xFE60#16 }

/-- The next state of an outcome, if it is one. -/
def nextOf : Host.Outcome State Fault Refusal → Option State
  | .next t => some t
  | .fault _ => none
  | .refused _ => none

/-- The first `n` entries of the frame buffer. -/
def fbList (s : State) (n : Nat) : List Byte := s.fb.toList.take n

/-- The used entries after one cycle that accepts `w`. -/
def fbAfter (s : State) (n : Nat) (w : CmdWord) : Option (List Byte) :=
  (nextOf (step { s with inputs := [PortInput.command w] })).map (fbList · n)

/-- A legal state on its way through SHOW with C = 1, CC, DW = 2 and FB = `60` (vector L2-D4), in driver state `st`. -/
def showState (st : DriverState) (bit : BitVec 4) : State :=
  { idleState (testConfig 1 .cc 2 1) [] with
    fb := #v[0x60#8, 0#8, 0#8, 0#8, 0#8, 0#8, 0#8, 0#8]
    st := st
    mode := .once
    bit := bit
    sreg := 0xFE60#16 }

/-- LATCH_LO of the digit frame (cycle 3 of L2-D4). -/
def latchLoState : State := showState .latchLo 0#4

/-- SHIFT_A before the first bit (cycle 4 of L2-D4). -/
def shiftAState : State := showState .shiftA 0#4

/-- SHIFT_B of the first bit (cycle 5 of L2-D4). -/
def shiftBFirst : State := { showState .shiftB 0#4 with sdataO := true }

/-- SHIFT_B of the last bit, fifteen bits sent. -/
def shiftBLast : State := { showState .shiftB 15#4 with stage := 0xFE60#16 >>> 1 }

/-- LATCH_HI of the digit frame (cycle 36 of L2-D4). -/
def latchHiState : State := { showState .latchHi 15#4 with stage := 0xFE60#16, sclkO := true, out := 0#16 }

/-- LATCH_HI of the clear frame (cycle 72 of L2-D4). -/
def clearHiState : State := { showState .latchHi 15#4 with stage := 0#16, sreg := 0#16, clr := true, sclkO := true }

/-- DWELL with `cnt` cycles to go (cycles 37 and 38 of L2-D4). -/
def dwellState (cnt : Nat) : State :=
  { showState .dwell 15#4 with stage := 0xFE60#16, out := 0xFE60#16, latchO := true, cnt := cnt }

/-- CHECK number 0 of a SHOWFOR with `dur` cycles; P is 37. -/
def checkState (dur : Nat) : State :=
  { showState .check 0#4 with mode := .timed, dur := dur }

/-- IDLE after a show (cycle 73 of L2-D4), presenting the given words. -/
def darkState (words : List CmdWord) : State :=
  { idleState (testConfig 1 .cc 2 1) words with stage := 0#16, out := 0#16, latchO := true }

/-- The parameters of every test configuration in range are lawful. -/
theorem testConfig_wf (c : Nat) (polarity : Polarity) (dw u : Nat) (hd : 1 ≤ dw) (hu : 1 ≤ u) (hu' : u < 2 ^ 32) :
    (testConfig c polarity dw u).wf = true := by
  have he : ∀ ch, Config.reference.glyphOf ch = defaultGlyph ch := by
    intro ch
    simp [Config.glyphOf, Config.reference, defaultGlyphTable]
  have hg : Config.reference.glyphPointFree = true ∧ Config.reference.glyphByClass = true := by
    unfold Config.glyphPointFree Config.glyphByClass
    simp only [he]
    decide +kernel
  exact (Config.wf_iff _).mpr ⟨hu, hu', hd, hg.1, hg.2⟩

/-- A legal state from its parts. -/
theorem legal_of_parts {s : State} (h0 : s.cfg.wf = true)
    (h1 : s.modeLegal ∧ s.clrLegal ∧ s.positionLegal ∧ s.dwellLegal) (h2 : s.pinsLegal ∧ s.frameLegal)
    (h3 : s.chainLegal) (h4 : s.timeLegal) : s.Legal :=
  ⟨h0, h1.1, h1.2.1, h1.2.2.1, h1.2.2.2, h2.1, h2.2, h3, h4⟩

/-! ### Well-formedness: an ill-formed term for each check -/

theorem test_wf_load_pi : (Instr.load true 8 (Vector.replicate 8 0#8)).wf = false := by decide
theorem test_wf_ptset_idx : (Instr.ptset 256).wf = false := by decide
theorem test_wf_ptclr_idx : (Instr.ptclr 256).wf = false := by decide
theorem test_wf_showfor_duration : (Instr.showFor 4294967296).wf = false := by decide +kernel
theorem test_wf_greatest :
    (Instr.load true 7 (Vector.replicate 8 255#8)).wf = true ∧ (Instr.ptset 255).wf = true ∧
      (Instr.ptclr 255).wf = true ∧ (Instr.showFor 4294967295).wf = true ∧ Instr.nop.wf = true ∧
      Instr.showOnce.wf = true := by decide +kernel

/-! ### Decoding: words written out from R60 to R65 (vectors L2-E1, L2-E2) -/

theorem test_decode_nop : decodeTableWord 80 0x00000000000000000000 = some .nop := by decide +kernel
theorem test_decode_load : decodeTableWord 80 0x0181FFFFFFFFFFFF3130 =
    some (.load true 1 #v[0x30#8, 0x31#8, 0xFF#8, 0xFF#8, 0xFF#8, 0xFF#8, 0xFF#8, 0xFF#8]) := by decide +kernel
theorem test_decode_load_every_position : decodeTableWord 80 0x01078877665544332211 =
    some (.load false 7 #v[0x11#8, 0x22#8, 0x33#8, 0x44#8, 0x55#8, 0x66#8, 0x77#8, 0x88#8]) := by decide +kernel
theorem test_decode_ptset : decodeTableWord 80 0x02FF0000000000000000 = some (.ptset 255) := by decide +kernel
theorem test_decode_ptclr : decodeTableWord 80 0x03010000000000000000 = some (.ptclr 1) := by decide +kernel
theorem test_decode_show : decodeTableWord 80 0x04000000000000000000 = some .showOnce := by decide +kernel
theorem test_decode_showfor : decodeTableWord 80 0x05000000000000000014 = some (.showFor 20) ∧
    decodeTableWord 80 0x050000000000FFFFFFFF = some (.showFor 4294967295) := by decide +kernel

/-- L2-E2: opcodes without a row. -/
theorem test_reserved_opcodes :
    decode 0x06000000000000000000#80 = .error .reservedOpcode ∧
    decode 0xFF000000000000000000#80 = .error .reservedOpcode := by decide +kernel

/-- L2-E2: a nonzero must-be-zero bit of each format. -/
theorem test_reserved_bits :
    [0x00000000000000000001#80, 0x01080000000000003130#80, 0x01C00000000000000000#80,
        0x02010000000000000001#80, 0x03018000000000000000#80, 0x04010000000000000000#80,
        0x05000000000100000000#80, 0x05010000000000000014#80].all
      (fun w => decide (decode w = .error .nonzeroReservedBits) && isReserved w) = true := by decide +kernel

/-! ### The ROM (vectors L2-R1 to L2-R4) -/

theorem test_rom_digits :
    (List.range 10).map (fun n => (testConfig 8 .cc 1 1).rom (BitVec.ofNat 8 (0x30 + n))) =
      [0xFC#8, 0x60#8, 0xDA#8, 0xF2#8, 0x66#8, 0xB6#8, 0xBE#8, 0xE0#8, 0xFE#8, 0xF6#8] := by decide +kernel

theorem test_rom_letters_ca :
    (List.range 26).map (fun k => (testConfig 8 .ca 1 1).rom (BitVec.ofNat 8 (0x61 + k))) =
      [0x11#8, 0xC1#8, 0x63#8, 0x85#8, 0x61#8, 0x71#8, 0x43#8, 0x91#8, 0xF3#8, 0x87#8, 0x51#8, 0xE3#8, 0x13#8] ++
      [0xD5#8, 0xC5#8, 0x31#8, 0x19#8, 0xF5#8, 0x49#8, 0xE1#8, 0x83#8, 0xC7#8, 0x81#8, 0x91#8, 0x89#8, 0x25#8] := by
  decide +kernel

/-- L2-R3: the codes next to each class. -/
theorem test_rom_corners :
    (∀ n ∈ [0x00, 0x1F, 0x20, 0x2C, 0x2E, 0x2F, 0x3A, 0x40, 0x5B, 0x60, 0x7B, 0x7F, 0x80, 0xC1, 0xFF],
      (testConfig 8 .ca 1 1).rom (BitVec.ofNat 8 n) = 0xFF#8) ∧
    (testConfig 8 .cc 1 1).rom 0x2D#8 = 0x02#8 ∧ (testConfig 8 .cc 1 1).rom 0x7A#8 = 0xDA#8 ∧
    (testConfig 8 .cc 1 1).rom 0x41#8 = 0xEE#8 := by decide +kernel

/-- L2-R4. -/
theorem test_point_operations :
    (testConfig 8 .cc 1 1).ptOn 0xF2#8 = 0xF3#8 ∧ (testConfig 8 .cc 1 1).ptOff 0xF3#8 = 0xF2#8 ∧
    (testConfig 8 .ca 1 1).ptOn 0xFF#8 = 0xFE#8 ∧ (testConfig 8 .ca 1 1).ptOff 0x0C#8 = 0x0D#8 := by decide +kernel

/-! ### One step per command (vectors L2-L, L2-P, L3) -/

theorem test_nop_step : (nextOf (step (idleState (testConfig 2 .cc 1 1) [0#80]))).map (fun t => (t.fb, t.st, t.inputs)) =
    some (Vector.replicate 8 0#8, .idle, []) := by decide +kernel

/-- L2-L1, first row. -/
theorem test_load_hello : fbAfter (idleState (testConfig 8 .cc 1 1) []) 8 0x010032342D4F4C4C4548#80 =
    some [0x6E#8, 0x9E#8, 0x1C#8, 0x1C#8, 0x3A#8, 0x02#8, 0x66#8, 0xDA#8] := by decide +kernel

/-- L2-L1: the point at the last used digit, and outside the display; entry 3 keeps the blank pattern. -/
theorem test_load_point :
    fbAfter (idleState (testConfig 3 .cc 1 1) []) 4 0x01822020202020333231#80 = some [0x60#8, 0xDA#8, 0xF3#8, 0x00#8] ∧
    fbAfter (idleState (testConfig 3 .cc 1 1) []) 4 0x01852020202020333231#80 = some [0x60#8, 0xDA#8, 0xF2#8, 0x00#8] := by
  decide +kernel

/-- The start state of L2-P: C = 3, CA, FB = `FD 02 0D`. -/
def pointState : State :=
  { idleState (testConfig 3 .ca 1 1) [] with fb := #v[0xFD#8, 0x02#8, 0x0D#8, 0xFF#8, 0xFF#8, 0xFF#8, 0xFF#8, 0xFF#8] }

/-- L2-P1, L2-P3, L2-P4, L2-P5. -/
theorem test_ptset :
    fbAfter pointState 4 0x02020000000000000000#80 = some [0xFD#8, 0x02#8, 0x0C#8, 0xFF#8] ∧
    fbAfter pointState 4 0x02030000000000000000#80 = some [0xFD#8, 0x02#8, 0x0D#8, 0xFF#8] ∧
    fbAfter pointState 4 0x02FF0000000000000000#80 = some [0xFD#8, 0x02#8, 0x0D#8, 0xFF#8] ∧
    fbAfter pointState 4 0x02010000000000000000#80 = some [0xFD#8, 0x02#8, 0x0D#8, 0xFF#8] := by decide +kernel

/-- L2-P2, L2-P6. -/
theorem test_ptclr :
    fbAfter pointState 4 0x03010000000000000000#80 = some [0xFD#8, 0x03#8, 0x0D#8, 0xFF#8] ∧
    fbAfter pointState 4 0x03000000000000000000#80 = some [0xFD#8, 0x02#8, 0x0D#8, 0xFF#8] := by decide +kernel

/-- L2-D4, cycle 2. -/
theorem test_show_step :
    (nextOf (step (idleState (testConfig 1 .cc 2 1) [0x04000000000000000000#80]))).map
      (fun t => (t.st, t.mode, t.clr, t.dig, t.latchO)) = some (.latchLo, .once, false, 0#3, false) := by decide +kernel

/-- Program P3, cycle 2: dur = 20 × 10. -/
theorem test_showfor_step :
    (nextOf (step (idleState (testConfig 2 .cc 3 10) [0x05000000000000000014#80]))).map
      (fun t => (t.st, t.mode, t.dur, t.elapsed)) = some (.check, .timed, 200, 0) := by decide +kernel

/-- Program P5, cycle 2. -/
theorem test_reserved_step : step (idleState (testConfig 2 .cc 1 1) [0x06000000000000000000#80]) =
    .refused .reservedEncoding :=
  step_of_reserved (e := .reservedOpcode) (by decide +kernel) (by decide +kernel) (by decide +kernel) (by decide +kernel)

/-- L2-S2: a command in a reset cycle is not accepted. -/
theorem test_reset_wins :
    (nextOf (step { idleState (testConfig 2 .ca 1 1) [] with
        fb := Vector.replicate 8 0x12#8
        inputs := [{ rst := true, cmdValid := true, cmd := 0x04000000000000000000#80 }] })).map
      (fun t => (t.fb, t.st, t.mode, t.stage, t.out)) =
    some (Vector.replicate 8 0xFF#8, .idle, .none, 0xA5A5#16, 0xFE60#16) := by decide +kernel

/-- The host's first question: a table word is the first instruction after reset. -/
theorem test_fetch_word :
    (nextOf (step (State.reset.withFetchWord 80 0x05000000000000000014))).map (fun t => (t.st, t.mode, t.dur)) =
      some (.check, .timed, 20) := by decide +kernel

/-! ### Driver steps (vectors L2-D1 to L2-D4, L2-D6) -/

theorem test_index_bytes :
    (List.range 8).map (indexByte (testConfig 8 .cc 1 1)) =
      [0xFE#8, 0xFD#8, 0xFB#8, 0xF7#8, 0xEF#8, 0xDF#8, 0xBF#8, 0x7F#8] ∧
    (List.range 8).map (indexByte (testConfig 8 .ca 1 1)) =
      [0x01#8, 0x02#8, 0x04#8, 0x08#8, 0x10#8, 0x20#8, 0x40#8, 0x80#8] := by decide +kernel

theorem test_frame_words :
    frameWord (testConfig 4 .cc 1 1) (indexByte (testConfig 4 .cc 1 1) 1) 0xF3#8 = 0xFDF3#16 ∧
    frameWord { testConfig 4 .ca 1 1 with firstByte := .segment } (indexByte (testConfig 4 .ca 1 1) 3) 0x99#8 =
      0x9908#16 := by decide +kernel

/-- L2-D3: the serial bits of 0xFE60, first sent first. -/
theorem test_serial_bits :
    (List.range 16).map (sbit (testConfig 8 .cc 1 1) 0xFE60#16) =
      [true, true, true, true, true, true, true, false, false, true, true, false, false, false, false, false] ∧
    (List.range 16).map (sbit { testConfig 8 .cc 1 1 with bitOrder := .lsbFirst } 0xFE60#16) =
      [false, true, true, true, true, true, true, true, false, false, false, false, false, true, true, false] := by
  decide +kernel

/-- L2-D4, cycle 36: the latch rises, the outputs take the frame, DWELL begins with cnt 2. -/
theorem test_latch_step :
    (nextOf (step latchHiState)).map (fun t => (t.st, t.cnt, t.latchO, t.sclkO, t.out)) =
      some (.dwell, 2, true, false, 0xFE60#16) := by decide +kernel

/-- L2-D6 with C = 2, DW = 3, P = 75: dur 75 makes no pass, dur 76 makes one. -/
theorem test_check_step :
    (nextOf (step { checkState 75 with cfg := testConfig 2 .cc 3 1 })).map (fun t => (t.st, t.clr, t.elapsed)) =
      some (.latchLo, true, 1) ∧
    (nextOf (step { checkState 76 with cfg := testConfig 2 .cc 3 1 })).map (fun t => (t.st, t.clr, t.elapsed)) =
      some (.latchLo, false, 1) := by decide +kernel

/-- Lit segments of program P1's frame FDF3: digit 1 shows F3, digit 0 nothing; L2-D7 with the other orders. -/
theorem test_lit :
    (List.range 8).map (lit (testConfig 4 .cc 1 1) 0xFDF3#16 1) =
      [true, true, false, false, true, true, true, true] ∧
    (List.range 8).map (lit (testConfig 4 .cc 1 1) 0xFDF3#16 0) = List.replicate 8 false ∧
    (List.range 8).map (lit { testConfig 4 .cc 1 1 with bitOrder := .lsbFirst, firstByte := .segment } 0xCFBF#16 1) =
      [true, true, false, false, true, true, true, true] := by decide +kernel

/-! ### Assembler and host formatting (30_encoding.md R69; vectors L1, L2-H) -/

theorem test_assemble :
    (AsmLine.load [0x20#8, 0x33#8, 0x31#8, 0x34#8] (some 1)).word = some 0x01812020202034313320#80 ∧
    (AsmLine.load [] (some 8)).word = none ∧ AsmLine.blank.word = some 0x05000000000000000000#80 := by decide +kernel

theorem test_parse :
    parseLine "LOAD \" 314\", pt=1 ; P1" = some (some (.load [0x20#8, 0x33#8, 0x31#8, 0x34#8] (some 1))) ∧
    parseLine "SHOWFOR 0x14" = some (some (.showFor 20)) ∧ parseLine "SHOW 1" = none := by decide +kernel

/-- L1-1. -/
theorem test_set_314 : encode (expandSet 4 (.real (314 / 100) 2) .right) = 0x01812020202034313320#80 := by decide +kernel

/-- L2-H: a carry, a tie away from zero, a small negative, a window that starts at −1. -/
theorem test_host_format :
    (HostValue.real (9996 / 1000) 2).chars = [0x31#8, 0x30#8, 0x30#8, 0x30#8] ∧
    (HostValue.real (-5 / 2) 0).chars = [0x2D#8, 0x33#8] ∧
    (HostValue.real (-15 / 1000) 2).chars = [0x2D#8, 0x30#8, 0x30#8, 0x32#8] ∧
    formatted 3 (integerChars 1234) .center = [0x32#8, 0x33#8, 0x34#8] ∧
    pointIndex 3 (.real (1234 / 100) 3) .right = none := by decide +kernel

/-! ### Witnesses: concrete states and operands that meet the hypotheses of the obligations, clause by clause -/

/-- NopLeavesEveryField: a word with OP 0x00 and another bit, in PAY and in AUX. -/
theorem witness_nopLeavesEveryField :
    opField 0x00000000000000000001#80 = 0x00#8 ∧ payField 0x00000000000000000001#80 ≠ 0#64 ∧
    opField 0x00800000000000000000#80 = 0x00#8 ∧ auxField 0x00800000000000000000#80 ≠ 0#8 := by decide +kernel

/-- C = 3: positions 2 and 3 stand on either side of C; PI = 7 is the greatest a word holds.
(LoadReplacesUsedEntries.) -/
theorem witness_loadReplacesUsedEntries :
    (7 < 8) ∧ (2 : Fin 8).val < (idleState (testConfig 3 .cc 1 1) []).cfg.digitCount ∧
    (idleState (testConfig 3 .cc 1 1) []).cfg.digitCount ≤ (3 : Fin 8).val := by decide +kernel

/-- LoadIgnoresUnusedOperands: C = 1, characters that differ from position 1 on, point indices 1 and 7. -/
theorem witness_loadIgnoresUnusedOperands :
    (∀ i : Fin 8, i.val < (idleState (testConfig 1 .cc 1 1) []).cfg.digitCount →
      (#v[0x31#8, 1#8, 1#8, 1#8, 1#8, 1#8, 1#8, 1#8] : Vector Byte 8)[i] =
        (#v[0x31#8, 2#8, 2#8, 2#8, 2#8, 2#8, 2#8, 2#8] : Vector Byte 8)[i]) ∧
    (idleState (testConfig 1 .cc 1 1) []).cfg.digitCount ≤ 1 ∧
    (idleState (testConfig 1 .cc 1 1) []).cfg.digitCount ≤ 7 := by decide +kernel

/-- IDX = C − 1, IDX = C and IDX = 255.
(PtsetSetsOnePoint, PtclrClearsOnePoint, PointCommandsWriteOnlyThePointBit.) -/
theorem witness_pointCommands :
    2 < (pointState).cfg.digitCount ∧ pointState.cfg.digitCount ≤ 3 ∧ pointState.cfg.digitCount ≤ 255 ∧ 255 < 256 ∧
    ((1 : Fin 8).val ≠ 2 ∨ (0 : Fin 8) ≠ 0) ∧ ((2 : Fin 8).val ≠ 2 ∨ (1 : Fin 8) ≠ 0) := by decide +kernel

theorem witness_frameBufferCommandsAreIdempotent :
    (Instr.load true 7 (Vector.replicate 8 0#8)).mnemonic = "LOAD" ∧ (Instr.ptset 0).mnemonic = "PTSET" ∧
    (Instr.ptclr 0).mnemonic = "PTCLR" := by decide

/-- ShowForStartsTimedRepeat: the greatest DURATION and the greatest U. -/
theorem witness_showForStartsTimedRepeat :
    (Instr.showFor (2 ^ 32 - 1)).wf = true ∧ (testConfig 1 .cc 1 (2 ^ 32 - 1)).wf = true :=
  ⟨by decide +kernel, testConfig_wf _ _ _ _ (by decide) (by decide +kernel) (by decide +kernel)⟩

theorem witness_decodeOfEncodeIsIdentity : (Instr.load true 7 (Vector.replicate 8 255#8)).wf = true := by decide

theorem witness_encodeOfDecodeIsIdentity :
    decode 0x050000000000FFFFFFFF#80 = .ok (.showFor 4294967295) := by decide +kernel

/-- DecoderMeetsOpcodeMap, AtMostOneRowAdmitsAWord, ReservedWordsByFamily: an admitted word and a reserved one. -/
theorem witness_opcodeMap :
    (⟨"LOAD", 0xFF780000000000000000#80, 0x01000000000000000000#80⟩ : OpcodeRow) ∈ opcodeTable ∧
    0x0187FFFFFFFFFFFFFFFF#80 &&& 0xFF780000000000000000#80 = (0x01000000000000000000#80 : CmdWord) ∧
    (∀ r ∈ opcodeTable, (0x06000000000000000000#80 : CmdWord) &&& r.mask ≠ r.pattern) := by decide +kernel

/-- AssembledLineDecodesToItsCommand. -/
theorem witness_assembledLine : (AsmLine.showFor 4294967295).assemble = some (.showFor 4294967295) := by decide +kernel

/-- StepRunsDecodedCommand. -/
theorem witness_stepRunsDecodedCommand :
    (darkState [0x02FF0000000000000000#80]).port.rst = false ∧ (darkState [0x02FF0000000000000000#80]).st = .idle ∧
    (darkState [0x02FF0000000000000000#80]).port.cmdValid = true ∧
    decode (darkState [0x02FF0000000000000000#80]).port.cmd = .ok (.ptset 255) := by decide +kernel

/-- AcceptedReservedWordIsRefused, first clause. -/
theorem witness_acceptedReservedWord :
    (darkState [0x06000000000000000000#80]).port.rst = false ∧ (darkState [0x06000000000000000000#80]).st = .idle ∧
    (darkState [0x06000000000000000000#80]).port.cmdValid = true ∧
    (∀ r ∈ opcodeTable, (darkState [0x06000000000000000000#80]).port.cmd &&& r.mask ≠ r.pattern) := by decide +kernel

/-- A refused run for the second clause. -/
theorem witness_refusedRun : run 1 (darkState [0x06000000000000000000#80]) = .refused .reservedEncoding := by
  have h : step (darkState [0x06000000000000000000#80]) = .refused .reservedEncoding :=
    step_of_reserved (e := .reservedOpcode) (by decide +kernel) (by decide +kernel) (by decide +kernel) (by decide +kernel)
  simp [run, h]

/-- A reset cycle in the middle of a show, under each policy.
(ResetCycleGivesResetState, ResetCycleKeepsChain.) -/
theorem witness_resetCycle :
    State.port { shiftBFirst with inputs := [PortInput.reset] } = PortInput.reset ∧ PortInput.reset.rst = true ∧
    shiftBFirst.cfg.fbResetPolicy = .blank ∧ shiftBFirst.nextCycle.applyReset.port.rst = false := by decide +kernel

/-- ConstructedStateHasResetValues, ConstructedStateIsLegal: requests 0 and 12 are clamped. -/
theorem witness_constructedState :
    ((testConfig 8 .ca 1 1).fbResetPolicy = .blank ∧ (State.resetWith (testConfig 8 .ca 1 1) []).port.rst = false) ∧
    (testConfig 0 .cc 1 1).wf = true ∧ (testConfig 12 .cc 1 1).wf = true :=
  ⟨by decide +kernel, testConfig_wf _ _ _ _ (by decide) (by decide) (by decide),
    testConfig_wf _ _ _ _ (by decide) (by decide) (by decide)⟩

/-- IdleCycleChangesNothing. -/
theorem witness_idleCycle :
    (darkState []).port.rst = false ∧ (darkState []).st = .idle ∧ (darkState []).port.cmdValid = false := by decide +kernel

/-- A busy cycle, and a reset cycle in IDLE.
(BusyBlockIgnoresCommandPort.) -/
theorem witness_notReady :
    State.cmdReady { shiftAState with inputs := [PortInput.command 0#80] } = false ∧
    State.cmdReady { darkState [] with inputs := [PortInput.reset] } = false ∧
    (PortInput.command 0#80).rst = PortInput.quiet.rst := by decide +kernel

/-- A busy state for every case of the driver step, at the values where its clauses meet.
(DriverStepFollowsStateMachine, PassStartsExactlyWhenTimeAllows.) -/
theorem witness_driverStep :
    (checkState 38).st = .check ∧ (checkState 38).elapsed + (checkState 38).cfg.passPeriod < (checkState 38).dur ∧
    (checkState 37).dur ≤ (checkState 37).elapsed + (checkState 37).cfg.passPeriod ∧
    latchLoState.st = .latchLo ∧ shiftAState.st = .shiftA ∧
    (shiftBFirst.st = .shiftB ∧ shiftBFirst.sclkO = false) ∧
    State.sclkO { shiftBFirst with sclkO := true } = true ∧
    (clearHiState.st = .latchHi ∧ clearHiState.clr = true) ∧ (latchHiState.st = .latchHi ∧ latchHiState.clr = false) ∧
    ((dwellState 2).st = .dwell ∧ 1 < (dwellState 2).cnt) ∧
    ((dwellState 1).cnt ≤ 1 ∧ (dwellState 1).cfg.digitCount ≤ (dwellState 1).dig.toNat + 1 ∧
      (dwellState 1).mode = .once) ∧
    (testConfig 2 .cc 2 1).digitCount = 2 ∧ (dwellState 1).dig.toNat + 1 < 2 ∧
    State.mode { dwellState 1 with mode := .timed } ≠ .once := by decide +kernel

/-- One more digit: the clause of DWELL that goes to the next digit. -/
theorem witness_driverStep_next :
    State.cnt { dwellState 0 with cfg := testConfig 2 .cc 2 1 } ≤ 1 ∧
    (0#3).toNat + 1 < (State.cfg { dwellState 0 with cfg := testConfig 2 .cc 2 1 }).digitCount := by decide +kernel

/-- Steps that answer a next state, for the whole-machine rules: a busy cycle, a LOAD that changes the buffer.
(ParametersNeverChange, FrameBufferFrozenWhileBusy, ChainNeverInfluencesTheBlock, OnlyThreeCommandsWriteFrameBuffer,
UnusedEntriesKeepTheirValue; with witness_legal, StepKeepsLegal and PinGuarantees.) -/
theorem witness_step :
    (nextOf (step shiftBLast)).isSome = true ∧ shiftBLast.st ≠ .idle ∧ shiftBLast.port.rst = false ∧
    fbAfter (darkState []) 1 0x01802020202020202038#80 = some [0xFF#8] ∧ fbList (darkState []) 1 = [0x00#8] ∧
    (darkState []).cfg.digitCount ≤ (1 : Fin 8).val := by decide +kernel

/-- The clauses on `elapsed`: timed, single pass, idle with a SHOWFOR and without.
(ElapsedCountsBusyTimedCycles.) -/
theorem witness_elapsed :
    ((checkState 38).st ≠ .idle ∧ (checkState 38).mode = .timed) ∧ (shiftAState.st ≠ .idle ∧ shiftAState.mode ≠ .timed) ∧
    (darkState [0x05000000000000000000#80]).port.cmdValid = true ∧
    decode (darkState [0x05000000000000000000#80]).port.cmd = .ok (.showFor 0) ∧
    (darkState []).port.cmdValid = false := by decide +kernel

/-- Rises of each clock pin, and cycles without one.
(ChainShiftsOnShiftClockRise, ChainLatchesOnLatchRise, PinGuarantees.) -/
theorem witness_pin_rises :
    (shiftBLast.sclkO = false ∧ (nextOf (step shiftBLast)).map State.sclkO = some true) ∧
    (latchHiState.latchO = false ∧ (nextOf (step latchHiState)).map State.latchO = some true) ∧
    (nextOf (step (dwellState 2))).map (fun t => (t.sclkO, t.latchO)) = some (false, true) := by decide +kernel

/-- Legal states in every driver state, with the first and last bit and the first and last dwell cycle. -/
theorem witness_legal :
    (latchLoState.Legal ∧ shiftAState.Legal ∧ shiftBFirst.Legal ∧ shiftBLast.Legal) ∧
    (latchHiState.Legal ∧ clearHiState.Legal ∧ (dwellState 2).Legal ∧ (dwellState 1).Legal) ∧
    (checkState 0).Legal ∧ (checkState 38).Legal ∧ (darkState []).Legal ∧ (idleState (testConfig 8 .ca 1 1) []).Legal := by
  refine ⟨⟨?_, ?_, ?_, ?_⟩, ⟨?_, ?_, ?_, ?_⟩, ?_, ?_, ?_, ?_⟩ <;>
    refine legal_of_parts (testConfig_wf _ _ _ _ (by decide) (by decide) (by decide)) ?_ ?_ ?_ ?_ <;> decide +kernel

/-- FrameReachesChainOutputs, FramePinsFollowTheTimingTable: a digit frame and the clear frame. -/
theorem witness_frame :
    latchLoState.st = .latchLo ∧ latchLoState.noResetFor 34 ∧ State.st { latchLoState with clr := true } = .latchLo := by
  decide +kernel

/-- SHOW on one digit, and the host already presenting the next command.
(ShowTakesItsCyclesAndEndsDark, ShowLightsEachDigitInTurn.) -/
theorem witness_show :
    (darkState [0x04000000000000000000#80, 0#80]).st = .idle ∧
    (darkState [0x04000000000000000000#80, 0#80]).port.cmdValid = true ∧
    decode (darkState [0x04000000000000000000#80, 0#80]).port.cmd = .ok .showOnce ∧
    1 ≤ (darkState [0x04000000000000000000#80, 0#80]).cfg.dwellCycles ∧
    (darkState [0x04000000000000000000#80, 0#80]).noResetFor
      (35 + (testConfig 1 .cc 2 1).digitCount * (34 + (testConfig 1 .cc 2 1).dwellCycles)) ∧
    (testConfig 1 .cc 2 1).digitCount = 1 := by decide +kernel

/-- SHOWFOR with dur = P (no pass) and dur = P + 1 (one pass), P being 37.
(ShowForMakesItsPassesAndEndsDark.) -/
theorem witness_showFor :
    ((darkState [0x05000000000000000025#80]).st = .idle ∧ (darkState [0x05000000000000000025#80]).port.cmdValid = true) ∧
    (darkState [0x05000000000000000025#80]).noResetFor (36 + 0 * 37) ∧
    ((darkState [0x05000000000000000026#80]).st = .idle ∧ (darkState [0x05000000000000000026#80]).port.cmdValid = true) ∧
    (darkState [0x05000000000000000026#80]).noResetFor (36 + 1 * 37) ∧
    1 ≤ (testConfig 1 .cc 2 1).dwellCycles ∧
    37 = 1 + (testConfig 1 .cc 2 1).digitCount * (34 + (testConfig 1 .cc 2 1).dwellCycles) ∧
    decode 0x05000000000000000025#80 = .ok (.showFor 37) ∧ decode 0x05000000000000000026#80 = .ok (.showFor 38) ∧
    (0 = if 37 * 1 = 0 then 0 else (37 * 1 - 1) / 37) ∧ (1 = if 38 * 1 = 0 then 0 else (38 * 1 - 1) / 37) := by
  decide +kernel

/-- A DWELL state of a SHOWFOR of 38 cycles, the last digit of its pass; `witness_legal` has that of a SHOW. -/
theorem witness_hold_timed : State.Legal { dwellState 2 with mode := .timed, dur := 38, elapsed := 35 } := by
  refine legal_of_parts (testConfig_wf _ _ _ _ (by decide) (by decide) (by decide)) ?_ ?_ ?_ ?_ <;> decide +kernel

/-- What DigitIsHeldUntilNextLatch asks besides legality. -/
theorem witness_hold :
    (dwellState 2).st = .dwell ∧ (dwellState 2).cnt = (dwellState 2).cfg.dwellCycles ∧
    (dwellState 2).noResetFor (35 + 2) ∧
    (dwellState 2).dig.toNat + 1 = (dwellState 2).cfg.digitCount := by decide +kernel

/-- BlankDarkensTheDisplay. -/
theorem witness_blank :
    Pseudo.blank.expand (darkState [encode (.showFor 0)]).cfg.digitCount = [.showFor 0] ∧
    (darkState [encode (.showFor 0)]).st = .idle ∧ (darkState [encode (.showFor 0)]).port.cmdValid = true ∧
    (darkState [encode (.showFor 0)]).port.cmd = encode (.showFor 0) ∧ (darkState [encode (.showFor 0)]).noResetFor 36 := by
  decide +kernel

/-- The two polarities, and the codes at the ends of the letter range; `testConfig_wf` has the two conditions on GLYPH.
(PolarityInvertsEveryPattern, PointBitLevels, RomDerivedProperties, RomFollowsCharacterClasses.) -/
theorem witness_rom :
    (testConfig 8 .cc 1 1).polarity = .cc ∧ (testConfig 8 .ca 1 1).polarity = .ca ∧
    charClass 0x20#8 = .other ∧ 0x41 ≤ (0x41#8).toNat ∧ (0x5A#8).toNat ≤ 0x5A := by decide +kernel

/-- The default glyphs: the hypothesis is met by the reference configuration. -/
theorem witness_defaultGlyphs : Config.reference.glyph = defaultGlyphTable := rfl

/-- Outputs that hold a frame, under both pairs of orders, for the first and the last digit.
(ReceivedBytesAreTheSentBytes, DigitFrameLightsItsDigitAlone; DwellShowsTheCurrentDigit has the legal DWELL states of
witness_legal.) -/
theorem witness_holdsFrame :
    holdsFrame (testConfig 8 .cc 1 1) 0x7F60#16
      (frameWord (testConfig 8 .cc 1 1) (indexByte (testConfig 8 .cc 1 1) 7) 0x60#8) ∧
    holdsFrame { testConfig 8 .cc 1 1 with bitOrder := .lsbFirst, firstByte := .segment } 0x007F#16 0x00FE#16 ∧
    7 < (testConfig 8 .cc 1 1).digitCount ∧ 0 < (testConfig 8 .cc 1 1).digitCount ∧
    (testConfig 3 .cc 1 1).digitCount ≤ 3 ∧ 2 < (testConfig 3 .cc 1 1).digitCount := by decide +kernel

/-- ClearFrameLightsNothing, DisplayStaysDarkInIdle; legality is in witness_legal. -/
theorem witness_darkIdle :
    (darkState []).out = 0#16 ∧ (darkState []).st = .idle ∧ (darkState []).latchO = true ∧
    (darkState []).port.rst = false ∧ (nextOf (step (darkState []))).isSome = true := by decide +kernel

/-- NegationAddsOneCharacter, CountCharactersFollowsItsRecursion, IntegerCharsAreTheMinimalDecimal,
LayoutKeepsFullAndRightmost, SetExpandsToItsLoad: values at the ends of each range. -/
theorem witness_host :
    (1 ≤ (1 : Int)) ∧ (0 ≤ (9 : Int) ∧ (9 : Int) ≤ 9) ∧ (-9 ≤ (-1 : Int) ∧ (-1 : Int) ≤ -1) ∧ 10 ≤ (10 : Int).natAbs ∧
    (integerChars 0).head? = some 0x30#8 ∧ (integerChars 123).length = 3 ∧ 3 ≤ (integerChars 12345).length ∧
    pointIndex 8 (.real (3 / 10) 1) .right = some 6 ∧ pointIndex 8 (.integer 5) .right = none := by decide +kernel

end Sys2Proof.Tests
end

section
/-! What a reset cycle leaves (10_state.md R37). -/

namespace Sys2Proof

@[simp] theorem Config.blank_cc {cfg : Config} (h : cfg.polarity = .cc) : cfg.blank = 0x00#8 :=
  Config.wire_cc h _

@[simp] theorem Config.blank_ca {cfg : Config} (h : cfg.polarity = .ca) : cfg.blank = 0xFF#8 :=
  Config.wire_ca h _

/-- Under BLANK the draw number plays no part. -/
theorem Config.getElem_resetFb_of_blank {cfg : Config} (h : cfg.fbResetPolicy = .blank) (n : Nat) (i : Fin 8) :
    (cfg.resetFb n)[i] = cfg.blank := by
  simp [Config.resetFb, h]

end Sys2Proof

namespace Sys2Proof.Machine

theorem State.cmdReady_of_idle {s : State} (hst : s.st = .idle) (hr : s.port.rst = false) : s.cmdReady = true := by
  simp [State.cmdReady, hst, hr]

@[simp] theorem State.applyReset_cfg (s : State) : s.applyReset.cfg = s.cfg := rfl
@[simp] theorem State.applyReset_fb (s : State) : s.applyReset.fb = s.cfg.resetFb s.draw := rfl
@[simp] theorem State.applyReset_st (s : State) : s.applyReset.st = .idle := rfl
@[simp] theorem State.applyReset_mode (s : State) : s.applyReset.mode = .none := rfl
@[simp] theorem State.applyReset_clr (s : State) : s.applyReset.clr = false := rfl
@[simp] theorem State.applyReset_dig (s : State) : s.applyReset.dig = 0#3 := rfl
@[simp] theorem State.applyReset_bit (s : State) : s.applyReset.bit = 0#4 := rfl
@[simp] theorem State.applyReset_cnt (s : State) : s.applyReset.cnt = 0 := rfl
@[simp] theorem State.applyReset_elapsed (s : State) : s.applyReset.elapsed = 0 := rfl
@[simp] theorem State.applyReset_dur (s : State) : s.applyReset.dur = 0 := rfl
@[simp] theorem State.applyReset_sreg (s : State) : s.applyReset.sreg = 0#16 := rfl
@[simp] theorem State.applyReset_latchO (s : State) : s.applyReset.latchO = false := rfl
@[simp] theorem State.applyReset_sclkO (s : State) : s.applyReset.sclkO = false := rfl
@[simp] theorem State.applyReset_sdataO (s : State) : s.applyReset.sdataO = false := rfl
@[simp] theorem State.applyReset_inputs (s : State) : s.applyReset.inputs = s.inputs := rfl
@[simp] theorem State.applyReset_draw (s : State) : s.applyReset.draw = s.draw + 1 := rfl

/-- Under BLANK every entry is at the blank pattern after a reset, used or not. -/
theorem State.getElem_applyReset_fb_of_blank {s : State} (h : s.cfg.fbResetPolicy = .blank) (i : Fin 8) :
    s.applyReset.fb[i] = s.cfg.blank :=
  Config.getElem_resetFb_of_blank h _ i

end Sys2Proof.Machine

namespace Sys2Proof.Proofs
open Sys2Proof.Machine

/-- Settles O20: the reset cycle's next state is `applyReset` of the next cycle, read field by field; the frame buffer
is blank entry by entry, and an idle block is ready as soon as no reset is on the port. -/
theorem resetCycleGivesResetState : Obligations.ResetCycleGivesResetState := by
  unfold Obligations.ResetCycleGivesResetState
  intro s hr
  have hready : s.nextCycle.applyReset.port.rst = false → s.nextCycle.applyReset.cmdReady = true :=
    State.cmdReady_of_idle (State.applyReset_st _)
  have hblank (hp : s.cfg.fbResetPolicy = .blank) (i : Fin 8) :
      s.nextCycle.applyReset.fb[i] = match s.cfg.polarity with | .cc => 0x00#8 | .ca => 0xFF#8 := by
    rw [State.getElem_applyReset_fb_of_blank (s := s.nextCycle) hp i, State.nextCycle_cfg]
    cases hpol : s.cfg.polarity with
    | cc => exact Config.blank_cc hpol
    | ca => exact Config.blank_ca hpol
  refine ⟨s.nextCycle.applyReset, step_of_reset hr, ?_⟩
  iterate 14 refine ⟨by simp, ?_⟩
  exact ⟨hready, hblank⟩

end Sys2Proof.Proofs
end

section
/-! The opcode map against the decoder: the rows field by field, and what the decoder accepts (30_encoding.md R61 to
R68). -/

namespace Sys2Proof

@[simp] theorem opField_and (w v : CmdWord) : opField (w &&& v) = opField w &&& opField v :=
  BitVec.extractLsb'_and

/-- Words made of fields are equal exactly when the fields are. -/
theorem wordOf_inj {a a' b b' : BitVec 8} {c c' : BitVec 64} :
    wordOf a b c = wordOf a' b' c' ↔ a = a' ∧ b = b' ∧ c = c' := by
  refine ⟨fun h => ⟨?_, ?_, ?_⟩, by rintro ⟨rfl, rfl, rfl⟩; rfl⟩
  · simpa using congrArg opField h
  · simpa using congrArg auxField h
  · simpa using congrArg payField h

/-- A mask and a match made of fields are met field by field. -/
theorem and_wordOf_eq_wordOf (w : CmdWord) (a a' b b' : BitVec 8) (c c' : BitVec 64) :
    w &&& wordOf a b c = wordOf a' b' c' ↔
      opField w &&& a = a' ∧ auxField w &&& b = b' ∧ payField w &&& c = c' := by
  conv_lhs => rw [← wordOf_fields w, Laws.EncodedOpcode.wordOf_and, wordOf_inj]

/-- LOAD's mask on AUX covers bits 6 to 3. -/
theorem and_loadMask_eq_zero_iff (aux : BitVec 8) : aux &&& 0x78#8 = 0#8 ↔ aux.extractLsb' 3 4 = 0#4 := by
  revert aux
  decide +kernel

/-- SHOWFOR's mask on PAY covers the high half. -/
theorem and_showForMask_eq_zero_iff (pay : BitVec 64) :
    pay &&& 0xFFFFFFFF00000000#64 = 0#64 ↔ pay.extractLsb' 32 32 = 0#32 := by
  constructor
  · intro h
    have hmask : (0xFFFFFFFF00000000#64).extractLsb' 32 32 = BitVec.allOnes 32 := by decide
    rw [← BitVec.and_allOnes (x := pay.extractLsb' 32 32), ← hmask, ← BitVec.extractLsb'_and, h]
    rfl
  · intro h
    have hmask : 0xFFFFFFFF00000000#64 = 0xFFFFFFFF#32 ++ 0#32 := by decide
    rw [← duration_of_fields pay h, hmask, BitVec.and_append, BitVec.zero_and, BitVec.and_zero]
    rfl

/-- The opcode map of R61 with masks and matches written by their fields. -/
theorem opcodeTable_eq : opcodeTable =
    [ ⟨"NOP", wordOf (BitVec.allOnes 8) (BitVec.allOnes 8) (BitVec.allOnes 64), wordOf 0x00#8 0#8 0#64⟩,
      ⟨"LOAD", wordOf (BitVec.allOnes 8) 0x78#8 0#64, wordOf 0x01#8 0#8 0#64⟩,
      ⟨"PTSET", wordOf (BitVec.allOnes 8) 0#8 (BitVec.allOnes 64), wordOf 0x02#8 0#8 0#64⟩,
      ⟨"PTCLR", wordOf (BitVec.allOnes 8) 0#8 (BitVec.allOnes 64), wordOf 0x03#8 0#8 0#64⟩,
      ⟨"SHOW", wordOf (BitVec.allOnes 8) (BitVec.allOnes 8) (BitVec.allOnes 64), wordOf 0x04#8 0#8 0#64⟩,
      ⟨"SHOWFOR", wordOf (BitVec.allOnes 8) (BitVec.allOnes 8) 0xFFFFFFFF00000000#64, wordOf 0x05#8 0#8 0#64⟩ ] :=
  by decide

/-- Every mask covers OP. -/
theorem opField_mask {r : OpcodeRow} (hr : r ∈ opcodeTable) : opField r.mask = BitVec.allOnes 8 := by
  revert r; decide

/-- No two rows have one OP value. -/
theorem row_eq_of_opField_pattern {r r' : OpcodeRow} (hr : r ∈ opcodeTable) (hr' : r' ∈ opcodeTable)
    (h : opField r.pattern = opField r'.pattern) : r = r' := by
  have hnodup : (opcodeTable.map fun r => opField r.pattern).Nodup := by decide
  exact List.inj_on_of_nodup_map hnodup hr hr' h

/-- No two rows have one mnemonic. -/
theorem row_eq_of_mnemonic {r r' : OpcodeRow} (hr : r ∈ opcodeTable) (hr' : r' ∈ opcodeTable)
    (h : r.mnemonic = r'.mnemonic) : r = r' :=
  List.inj_on_of_nodup_map (f := OpcodeRow.mnemonic) (by decide) hr hr' h

/-- A word that a row admits has the row's OP. -/
theorem opField_eq_of_admitted {w : CmdWord} {r : OpcodeRow} (hr : r ∈ opcodeTable) (h : w &&& r.mask = r.pattern) :
    opField w = opField r.pattern := by
  rw [← h, opField_and, opField_mask hr, BitVec.and_allOnes]

/-- The command a word stands for by the field rules R62 to R65, the bits that must be zero included. -/
inductive ReadsAs (w : CmdWord) : Instr → Prop where
  | nop (hop : opField w = 0x00#8) (h : auxField w = 0#8 ∧ payField w = 0#64) : ReadsAs w .nop
  | load (hop : opField w = 0x01#8) (h : (auxField w).extractLsb' 3 4 = 0#4) :
      ReadsAs w (.load ((auxField w).getLsbD 7) ((auxField w).extractLsb' 0 3).toNat (charsOf (payField w)))
  | ptset (hop : opField w = 0x02#8) (h : payField w = 0#64) : ReadsAs w (.ptset (auxField w).toNat)
  | ptclr (hop : opField w = 0x03#8) (h : payField w = 0#64) : ReadsAs w (.ptclr (auxField w).toNat)
  | showOnce (hop : opField w = 0x04#8) (h : auxField w = 0#8 ∧ payField w = 0#64) : ReadsAs w .showOnce
  | showFor (hop : opField w = 0x05#8) (h : auxField w = 0#8 ∧ (payField w).extractLsb' 32 32 = 0#32) :
      ReadsAs w (.showFor ((payField w).extractLsb' 0 32).toNat)

/-- The decoder accepts exactly what the field rules read. -/
theorem decode_eq_ok_iff {w : CmdWord} {i : Instr} : decode w = .ok i ↔ ReadsAs w i := by
  constructor
  · intro h
    unfold decode at h
    split_ifs at h <;> cases h
    · exact .nop ‹_› ‹_›
    · exact .load ‹_› ‹_›
    · exact .ptset ‹_› ‹_›
    · exact .ptclr ‹_› ‹_›
    · exact .showOnce ‹_› ‹_›
    · exact .showFor ‹_› ‹_›
  · intro h
    cases h <;> simp [decode, *]

/-- The decoder rejects exactly the words it does not accept. -/
theorem decode_eq_error_iff {w : CmdWord} : (∃ e, decode w = .error e) ↔ ¬ ∃ i, decode w = .ok i := by
  cases decode w <;> simp

/-- What the field rules read from a word is the command of a row that admits it. -/
theorem ReadsAs.exists_row {w : CmdWord} {i : Instr} (h : ReadsAs w i) :
    ∃ r ∈ opcodeTable, r.mnemonic = i.mnemonic ∧ w &&& r.mask = r.pattern := by
  rw [opcodeTable_eq]
  cases h <;> simp [Instr.mnemonic, and_wordOf_eq_wordOf, and_loadMask_eq_zero_iff, and_showForMask_eq_zero_iff, *]

/-- A row admits a word exactly when the field rules read the row's command from it. -/
theorem admitted_iff_readsAs {w : CmdWord} {r : OpcodeRow} (hr : r ∈ opcodeTable) :
    w &&& r.mask = r.pattern ↔ ∃ i, ReadsAs w i ∧ i.mnemonic = r.mnemonic := by
  constructor
  · intro h
    rw [opcodeTable_eq] at hr
    fin_cases hr <;>
      simp only [and_wordOf_eq_wordOf, BitVec.and_allOnes, BitVec.and_zero, and_loadMask_eq_zero_iff,
        and_showForMask_eq_zero_iff, true_and, and_true] at h <;> obtain ⟨hop, hz⟩ := h
    · exact ⟨_, .nop hop hz, rfl⟩
    · exact ⟨_, .load hop hz, rfl⟩
    · exact ⟨_, .ptset hop hz, rfl⟩
    · exact ⟨_, .ptclr hop hz, rfl⟩
    · exact ⟨_, .showOnce hop hz, rfl⟩
    · exact ⟨_, .showFor hop hz, rfl⟩
  · rintro ⟨i, hread, hname⟩
    obtain ⟨r', hr', hname', hadm⟩ := hread.exists_row
    rwa [row_eq_of_mnemonic hr hr' (hname.symm.trans hname'.symm)]

end Sys2Proof

namespace Sys2Proof.Proofs

/-- Settles O13: the decoder accepts what the field rules read, and a row admits exactly the words from which they read
its command. -/
theorem decoderMeetsOpcodeMap : Obligations.DecoderMeetsOpcodeMap := by
  unfold Obligations.DecoderMeetsOpcodeMap
  intro w r hr
  simp only [decode_eq_ok_iff]
  exact admitted_iff_readsAs hr

/-- Settles O14: two rows that admit one word have its OP, and no two rows share one; a word is rejected when no command
is read from it, and by O13 that is when no row admits it. -/
theorem atMostOneRowAdmitsAWord : Obligations.AtMostOneRowAdmitsAWord := by
  unfold Obligations.AtMostOneRowAdmitsAWord
  intro w
  refine ⟨fun r hr r' hr' h h' => row_eq_of_opField_pattern hr hr' ?_, ?_⟩
  · exact (opField_eq_of_admitted hr h).symm.trans (opField_eq_of_admitted hr' h')
  · rw [decode_eq_error_iff]
    constructor
    · rintro hnone ⟨i, hdec⟩
      obtain ⟨r, hr, -, hadm⟩ := (decode_eq_ok_iff.mp hdec).exists_row
      exact hnone r hr hadm
    · intro hnone r hr hadm
      obtain ⟨i, hread, -⟩ := (admitted_iff_readsAs hr).mp hadm
      exact hnone ⟨i, decode_eq_ok_iff.mpr hread⟩

end Sys2Proof.Proofs
end

section
/-! The ROM's patterns bit by bit: polarity as XOR with the blank pattern, and the point's level, which is off where it
is that of the blank pattern (40_rom.md R83 to R87). -/

namespace Sys2Proof

/-- XOR with the blank pattern is also what applies polarity. -/
theorem Config.wire_eq_xor_blank (cfg : Config) (p : Byte) : cfg.wire p = p ^^^ cfg.blank := by
  rw [← BitVec.xor_left_inj cfg.blank, Config.wire_xor_blank, BitVec.xor_assoc, BitVec.xor_self, BitVec.xor_zero]

theorem Config.rom_ca_eq_not_rom_cc {cfg : Config} (h : cfg.polarity = .ca) (ch : Byte) :
    cfg.rom ch = ~~~({ cfg with polarity := .cc }.rom ch) :=
  Config.wire_ca h _

/-- A glyph without a point leaves the ROM's point at the blank pattern's level. -/
theorem Config.getLsbD_rom_zero {cfg : Config} (h : cfg.glyphPointFree = true) (ch : Byte) :
    (cfg.rom ch).getLsbD 0 = cfg.blank.getLsbD 0 := by
  rw [Config.rom, Config.wire_eq_xor_blank, BitVec.getLsbD_xor, Config.glyphPointFree_apply h, Bool.false_xor]

theorem getLsbD_or_point (b : Byte) (i : Nat) :
    (b ||| 0x01#8).getLsbD i = if i = 0 then true else b.getLsbD i := by
  rw [BitVec.getLsbD_or, BitVec.getLsbD_one]
  split <;> simp [*]

theorem getLsbD_and_not_point (b : Byte) (i : Nat) :
    (b &&& 0xFE#8).getLsbD i = if i = 0 then false else b.getLsbD i := by
  have hmask : 0xFE#8 = ~~~0x01#8 := by decide
  rw [BitVec.getLsbD_and, hmask, BitVec.getLsbD_not, BitVec.getLsbD_one]
  split
  · simp [*]
  · simpa [*] using BitVec.lt_of_getLsbD

theorem Config.ptOn_cc {cfg : Config} (h : cfg.polarity = .cc) (b : Byte) : cfg.ptOn b = b ||| 0x01#8 := by
  simp [Config.ptOn, h]

theorem Config.ptOn_ca {cfg : Config} (h : cfg.polarity = .ca) (b : Byte) : cfg.ptOn b = b &&& 0xFE#8 := by
  simp [Config.ptOn, h]

theorem Config.ptOff_cc {cfg : Config} (h : cfg.polarity = .cc) (b : Byte) : cfg.ptOff b = b &&& 0xFE#8 := by
  simp [Config.ptOff, h]

theorem Config.ptOff_ca {cfg : Config} (h : cfg.polarity = .ca) (b : Byte) : cfg.ptOff b = b ||| 0x01#8 := by
  simp [Config.ptOff, h]

/-- PT_ON writes the level that the blank pattern does not have at the point, and nothing else. -/
theorem Config.getLsbD_ptOn (cfg : Config) (b : Byte) (i : Nat) :
    (cfg.ptOn b).getLsbD i = if i = 0 then !cfg.blank.getLsbD 0 else b.getLsbD i := by
  cases hpol : cfg.polarity with
  | cc => rw [Config.ptOn_cc hpol, Config.blank_cc hpol, getLsbD_or_point]; rfl
  | ca => rw [Config.ptOn_ca hpol, Config.blank_ca hpol, getLsbD_and_not_point]; rfl

/-- PT_OFF writes the blank pattern's level at the point, and nothing else. -/
theorem Config.getLsbD_ptOff (cfg : Config) (b : Byte) (i : Nat) :
    (cfg.ptOff b).getLsbD i = if i = 0 then cfg.blank.getLsbD 0 else b.getLsbD i := by
  cases hpol : cfg.polarity with
  | cc => rw [Config.ptOff_cc hpol, Config.blank_cc hpol, getLsbD_and_not_point]; rfl
  | ca => rw [Config.ptOff_ca hpol, Config.blank_ca hpol, getLsbD_or_point]; rfl

@[simp] theorem Config.ptOff_ptOn (cfg : Config) (b : Byte) : cfg.ptOff (cfg.ptOn b) = cfg.ptOff b := by
  refine BitVec.eq_of_getLsbD_eq fun i _ => ?_
  rw [Config.getLsbD_ptOff, Config.getLsbD_ptOff, Config.getLsbD_ptOn]
  split <;> rfl

@[simp] theorem Config.ptOn_ptOff (cfg : Config) (b : Byte) : cfg.ptOn (cfg.ptOff b) = cfg.ptOn b := by
  refine BitVec.eq_of_getLsbD_eq fun i _ => ?_
  rw [Config.getLsbD_ptOn, Config.getLsbD_ptOn, Config.getLsbD_ptOff]
  split <;> rfl

/-- PT_OFF changes nothing where the point is off already. -/
theorem Config.ptOff_eq_self {cfg : Config} {b : Byte} (h : b.getLsbD 0 = cfg.blank.getLsbD 0) : cfg.ptOff b = b := by
  refine BitVec.eq_of_getLsbD_eq fun i _ => ?_
  rw [Config.getLsbD_ptOff, ← h]
  split
  · rw [‹i = 0›]
  · rfl

end Sys2Proof

namespace Sys2Proof.Proofs

/-- Settles O47: the glyph comes back because ROM is WIRE of it; the point operations absorb each other because each
overwrites the one bit the other writes; and the ROM's point has the blank pattern's level. -/
theorem romDerivedProperties : Obligations.RomDerivedProperties := by
  unfold Obligations.RomDerivedProperties
  intro cfg ch b
  refine ⟨cfg.wire_xor_blank _, fun h => Config.rom_ca_eq_not_rom_cc h ch, cfg.ptOff_ptOn b, cfg.ptOn_ptOff b,
    fun h => ?_⟩
  rw [Config.getLsbD_rom_zero h]
  cases hpol : cfg.polarity with
  | cc => simp [Config.blank_cc hpol]
  | ca => simp [Config.blank_ca hpol]

/-- Settles O45: the two polarities of WIRE. -/
theorem polarityInvertsEveryPattern : Obligations.PolarityInvertsEveryPattern :=
  fun _ p => ⟨fun h => Config.wire_cc h p, fun h => Config.wire_ca h p⟩

/-- Settles O46: each point operation is known bit by bit, its level from the blank pattern of the polarity; a ROM
pattern has that level already. -/
theorem pointBitLevels : Obligations.PointBitLevels := by
  unfold Obligations.PointBitLevels
  intro cfg b
  have hon (i : Nat) := cfg.getLsbD_ptOn b i
  have hoff (i : Nat) := cfg.getLsbD_ptOff b i
  refine ⟨fun k hk => ?_, fun hpol => ?_, fun hpol => ?_, fun h ch => Config.ptOff_eq_self (Config.getLsbD_rom_zero h ch)⟩
  · have hk' : k.val ≠ 0 := Fin.val_ne_zero_iff.mpr hk
    exact ⟨(hon k).trans (if_neg hk'), (hoff k).trans (if_neg hk')⟩
  · rw [hon, hoff, Config.blank_cc hpol]
    exact ⟨rfl, rfl⟩
  · rw [hon, hoff, Config.blank_ca hpol]
    exact ⟨rfl, rfl⟩

end Sys2Proof.Proofs
end

section
/-! The commands that finish in their accept cycle: the words they are read from, and what they do to the frame buffer
entry by entry (41_framebuffer.md R101 to R104). -/

namespace Sys2Proof

/-- NOP is read from the word whose three fields are zero, and from no other. -/
theorem readsAs_nop_iff {w : CmdWord} :
    ReadsAs w .nop ↔ opField w = 0x00#8 ∧ auxField w = 0#8 ∧ payField w = 0#64 := by
  constructor
  · rintro ⟨hop, h⟩
    exact ⟨hop, h⟩
  · rintro ⟨hop, h⟩
    exact .nop hop h

/-- OP 0x00 is NOP's alone. -/
theorem ReadsAs.eq_nop {w : CmdWord} {i : Instr} (h : ReadsAs w i) (hop : opField w = 0x00#8) : i = .nop := by
  cases h with
  | nop => rfl
  | load hop' | ptset hop' | ptclr hop' | showOnce hop' | showFor hop' =>
    exact absurd (hop.symm.trans hop') (by decide)

theorem readsAs_wordOf_load (pv : Bool) {pi : Nat} (h : pi < 8) (chars : Vector Byte 8) :
    ReadsAs (wordOf 0x01#8 (loadAux pv pi) (payOf chars)) (.load pv pi chars) := by
  obtain ⟨hpv, hzero, hpi⟩ := loadAux_fields pv pi h
  have hread := ReadsAs.load (w := wordOf 0x01#8 (loadAux pv pi) (payOf chars)) (by simp) (by simpa using hzero)
  simpa only [auxField_wordOf, payField_wordOf, hpv, hpi, charsOf_payOf] using hread

theorem readsAs_wordOf_ptset {idx : Nat} (h : idx < 256) :
    ReadsAs (wordOf 0x02#8 (BitVec.ofNat 8 idx) 0#64) (.ptset idx) := by
  have hread := ReadsAs.ptset (w := wordOf 0x02#8 (BitVec.ofNat 8 idx) 0#64) (by simp) (by simp)
  rwa [auxField_wordOf, BitVec.toNat_ofNat, Nat.mod_eq_of_lt h] at hread

theorem readsAs_wordOf_ptclr {idx : Nat} (h : idx < 256) :
    ReadsAs (wordOf 0x03#8 (BitVec.ofNat 8 idx) 0#64) (.ptclr idx) := by
  have hread := ReadsAs.ptclr (w := wordOf 0x03#8 (BitVec.ofNat 8 idx) 0#64) (by simp) (by simp)
  rwa [auxField_wordOf, BitVec.toNat_ofNat, Nat.mod_eq_of_lt h] at hread

@[simp] theorem Config.ptOn_ptOn (cfg : Config) (b : Byte) : cfg.ptOn (cfg.ptOn b) = cfg.ptOn b := by
  rw [← Config.ptOn_ptOff cfg (cfg.ptOn b), Config.ptOff_ptOn, Config.ptOn_ptOff]

@[simp] theorem Config.ptOff_ptOff (cfg : Config) (b : Byte) : cfg.ptOff (cfg.ptOff b) = cfg.ptOff b := by
  rw [← Config.ptOff_ptOn cfg (cfg.ptOff b), Config.ptOn_ptOff, Config.ptOff_ptOn]

end Sys2Proof

namespace Sys2Proof.Machine

/-! ### What each command is -/

theorem exec_nop (s : State) : exec .nop s = .next s := rfl

theorem exec_load (pv : Bool) (pi : Nat) (chars : Vector Byte 8) (s : State) :
    exec (.load pv pi chars) s = .next (s.mapFb fun i _ => loadEntry s.cfg pv pi i.val chars[i]) := rfl

theorem exec_ptset (idx : Nat) (s : State) : exec (.ptset idx) s = .next (s.modifyEntry idx s.cfg.ptOn) := rfl

theorem exec_ptclr (idx : Nat) (s : State) : exec (.ptclr idx) s = .next (s.modifyEntry idx s.cfg.ptOff) := rfl

theorem loadEntry_eq (cfg : Config) (pv : Bool) (pi i : Nat) (ch : Byte) :
    loadEntry cfg pv pi i ch = if pv = true ∧ pi = i then cfg.ptOn (cfg.rom ch) else cfg.rom ch := by
  simp [loadEntry, pointAt]

/-! ### Frame-buffer writes -/

theorem State.mapFb_getElem (s : State) (f : Fin 8 → Byte → Byte) (i : Fin 8) :
    (s.mapFb f).fb[i] = if i.val < s.cfg.digitCount then f i s.fb[i] else s.fb[i] := by
  simp

/-- A write of entries that change no more when written again is idempotent. -/
theorem State.mapFb_mapFb (s : State) {f : Fin 8 → Byte → Byte} (hf : ∀ i b, f i (f i b) = f i b) :
    (s.mapFb f).mapFb f = s.mapFb f := by
  have hentry (i : Fin 8) : ((s.mapFb f).mapFb f).fb[i] = (s.mapFb f).fb[i] := by
    simp only [State.mapFb_getElem, State.mapFb_cfg]
    split
    · exact hf _ _
    · rfl
  have hfb : ((s.mapFb f).mapFb f).fb = (s.mapFb f).fb := Vector.ext fun i hi => hentry ⟨i, hi⟩
  calc (s.mapFb f).mapFb f = { s.mapFb f with fb := ((s.mapFb f).mapFb f).fb } := rfl
    _ = s.mapFb f := by rw [hfb]

theorem State.modifyEntry_of_le {s : State} {idx : Nat} (h : s.cfg.digitCount ≤ idx) (f : Byte → Byte) :
    s.modifyEntry idx f = s := by
  simp [State.modifyEntry, inRange, Nat.not_lt.mpr h]

theorem State.modifyEntry_of_lt {s : State} {idx : Nat} (h : idx < s.cfg.digitCount) (f : Byte → Byte) :
    s.modifyEntry idx f = s.mapFb fun i b => if i.val = idx then f b else b := by
  simp [State.modifyEntry, inRange, h]

@[simp] theorem State.modifyEntry_cfg (s : State) (idx : Nat) (f : Byte → Byte) : (s.modifyEntry idx f).cfg = s.cfg := by
  rw [modifyEntry_frame]

/-- A read-modify-write is idempotent where its function is. -/
theorem State.modifyEntry_modifyEntry (s : State) (idx : Nat) {f : Byte → Byte} (hf : ∀ b, f (f b) = f b) :
    (s.modifyEntry idx f).modifyEntry idx f = s.modifyEntry idx f := by
  rcases Nat.lt_or_ge idx s.cfg.digitCount with h | h
  · rw [State.modifyEntry_of_lt (by rwa [State.modifyEntry_cfg]), State.modifyEntry_of_lt h]
    refine State.mapFb_mapFb s fun i b => ?_
    split
    · exact hf b
    · rfl
  · rw [State.modifyEntry_of_le h, State.modifyEntry_of_le h]

end Sys2Proof.Machine

namespace Sys2Proof.Proofs
open Sys2Proof.Machine

/-- Settles O1: NOP answers the state itself; from a word with OP 0x00 no command but NOP can be read, so a row that
admitted it would make the rest of the word zero. -/
theorem nopLeavesEveryField : Obligations.NopLeavesEveryField := by
  unfold Obligations.NopLeavesEveryField
  refine ⟨exec_nop, fun w => decode_eq_ok_iff.trans readsAs_nop_iff, fun w hop hrest r hr hadm => ?_⟩
  obtain ⟨i, hread, -⟩ := (admitted_iff_readsAs hr).mp hadm
  obtain rfl := hread.eq_nop hop
  obtain ⟨-, haux, hpay⟩ := readsAs_nop_iff.mp hread
  exact hrest.elim (· haux) (· hpay)

/-- Settles O2: LOAD writes every used entry from its operands alone, whatever the entry held, so writing again changes
nothing. -/
theorem loadReplacesUsedEntries : Obligations.LoadReplacesUsedEntries := by
  unfold Obligations.LoadReplacesUsedEntries
  intro s pv pi chars
  refine ⟨fun h => decode_eq_ok_iff.mpr (readsAs_wordOf_load pv h chars), _, exec_load pv pi chars s,
    fun i hi => ?_, fun i hi => ?_, rfl, ?_⟩
  · rw [State.mapFb_getElem, if_pos hi, loadEntry_eq]
  · rw [State.mapFb_getElem, if_neg (Nat.not_lt.mpr hi)]
  · rw [exec_load, State.mapFb_cfg]
    exact congrArg _ (State.mapFb_mapFb s fun _ _ => rfl)

/-- Settles O4: PTSET is a read-modify-write of entry IDX with PT_ON, which is idempotent. -/
theorem ptsetSetsOnePoint : Obligations.PtsetSetsOnePoint := by
  unfold Obligations.PtsetSetsOnePoint
  intro s idx
  refine ⟨fun h => decode_eq_ok_iff.mpr (readsAs_wordOf_ptset h), _, exec_ptset idx s,
    modifyEntry_getElem s idx _, modifyEntry_frame s idx _, fun h => State.modifyEntry_of_le h _, ?_⟩
  rw [exec_ptset, State.modifyEntry_cfg, State.modifyEntry_modifyEntry s idx s.cfg.ptOn_ptOn]

/-- Settles O5: PTCLR is a read-modify-write of entry IDX with PT_OFF, which is idempotent. -/
theorem ptclrClearsOnePoint : Obligations.PtclrClearsOnePoint := by
  unfold Obligations.PtclrClearsOnePoint
  intro s idx
  refine ⟨fun h => decode_eq_ok_iff.mpr (readsAs_wordOf_ptclr h), _, exec_ptclr idx s,
    modifyEntry_getElem s idx _, modifyEntry_frame s idx _, fun h => State.modifyEntry_of_le h _, ?_⟩
  rw [exec_ptclr, State.modifyEntry_cfg, State.modifyEntry_modifyEntry s idx s.cfg.ptOff_ptOff]

end Sys2Proof.Proofs
end

section
/-! Runs of the driver, with the ports left out of sight: how runs compose, what they keep, and what the block does in
them when no reset comes (42_driver.md R126, R130). -/

namespace Sys2Proof.Machine

/-- A state with a driver case is busy. -/
theorem DriveCase.busy {s u : State} (h : DriveCase s u) : s.st ≠ .idle := by
  cases h <;> simp [*]

/-- The guards of the driver's cases exclude each other. -/
theorem DriveCase.driveCase_eq {s u : State} (h : DriveCase s u) : s.driveCase = u := by
  cases h <;>
    simp [State.driveCase, State.driveCheck, State.driveLatchLo, State.driveShiftA, State.driveShiftB,
      State.driveLatchHi, State.driveDwell, Nat.not_lt.mpr, *]

/-- Only the end of a show changes the mode. -/
theorem DriveCase.mode_of_busy {s u : State} (h : DriveCase s u) (hb : u.st ≠ .idle) : u.mode = s.mode := by
  cases h with
  | latchHiClear => exact absurd rfl hb
  | _ => rfl

/-- A run of `n` driver steps, the ports moving on with each. -/
inductive DriverRun : Nat → State → State → Prop where
  | refl (s : State) : DriverRun 0 s s
  | step {n : Nat} {s u t : State} (hu : DriveCase s.nextCycle u)
      (h : DriverRun n { u with elapsed := s.nextElapsed } t) : DriverRun (n + 1) s t

namespace DriverRun

theorem single {s u : State} (hu : DriveCase s.nextCycle u) : DriverRun 1 s { u with elapsed := s.nextElapsed } :=
  .step hu (.refl _)

theorem of_length_eq {n m : Nat} {s t : State} (h : DriverRun n s t) (hn : m = n) : DriverRun m s t := hn ▸ h

theorem trans {n m : Nat} {s t u : State} (h : DriverRun n s t) (h' : DriverRun m t u) : DriverRun (n + m) s u := by
  induction h with
  | refl => rwa [Nat.zero_add]
  | step hu _ ih =>
    rw [Nat.succ_add]
    exact .step hu (ih h')

/-- What every run of the driver leaves alone. -/
theorem frame {n : Nat} {s t : State} (h : DriverRun n s t) : t.cfg = s.cfg ∧ t.fb = s.fb ∧ t.dur = s.dur := by
  induction h with
  | refl => exact ⟨rfl, rfl, rfl⟩
  | step hu _ ih =>
    obtain ⟨hcfg, hfb, -, hdur, -, -⟩ := hu.frame
    obtain ⟨ihcfg, ihfb, ihdur⟩ := ih
    exact ⟨ihcfg.trans hcfg, ihfb.trans hfb, ihdur.trans hdur⟩

theorem cfg_eq {n : Nat} {s t : State} (h : DriverRun n s t) : t.cfg = s.cfg := h.frame.1

/-- A state from which a run goes on is busy. -/
theorem busy {n : Nat} {s t : State} (h : DriverRun (n + 1) s t) : s.st ≠ .idle := by
  cases h with
  | step hu => exact hu.busy

/-- A run that has not come to its end yet keeps the mode. -/
theorem mode_of_busy {n : Nat} {s t : State} (h : DriverRun n s t) (hb : t.st ≠ .idle) : t.mode = s.mode := by
  induction h with
  | refl => rfl
  | @step n s u t hu h ih =>
    have hub : u.st ≠ .idle := by
      cases h with
      | refl => exact hb
      | step hu' => exact hu'.busy
    exact (ih hb).trans (hu.mode_of_busy hub)

/-- Every cycle of a timed repeat counts (R126). -/
theorem elapsed_of_timed {n : Nat} {s t : State} (h : DriverRun n s t) (hm : s.mode = .timed) :
    t.elapsed = s.elapsed + n := by
  induction h with
  | refl => rfl
  | @step n s u t hu h ih =>
    have hnext : s.nextElapsed = s.elapsed + 1 := if_pos hm
    cases h with
    | refl => exact hnext
    | @step n _ _ _ hu' h' =>
      calc t.elapsed = s.nextElapsed + (n + 1) := ih ((hu.mode_of_busy hu'.busy).trans hm)
        _ = s.elapsed + (n + 1 + 1) := by omega

/-- Every state of a run but its last is busy. -/
theorem exists_busy_of_lt {n : Nat} {s t : State} (h : DriverRun n s t) {k : Nat} (hk : k < n) :
    ∃ u, DriverRun k s u ∧ u.st ≠ .idle := by
  induction h generalizing k with
  | refl => exact absurd hk (Nat.not_lt_zero k)
  | step hu _ ih =>
    cases k with
    | zero => exact ⟨_, .refl _, hu.busy⟩
    | succ k =>
      obtain ⟨v, hv, hb⟩ := ih (Nat.lt_of_succ_lt_succ hk)
      exact ⟨v, .step hu hv, hb⟩

end DriverRun

theorem State.noResetFor.mono {s : State} {n m : Nat} (h : s.noResetFor n) (hm : m ≤ n) : s.noResetFor m :=
  fun k hk => h k (Nat.lt_of_lt_of_le hk hm)

/-- No reset now. -/
theorem State.noResetFor.port {s : State} {n : Nat} (h : s.noResetFor (n + 1)) : s.port.rst = false :=
  h 0 n.succ_pos

/-- No reset after the ports have moved on. -/
theorem State.noResetFor.tail {s t : State} {n : Nat} (h : s.noResetFor (n + 1)) (ht : t.inputs = s.inputs.tail) :
    t.noResetFor n := by
  intro k hk
  have hport : t.portAt k = s.portAt (k + 1) := by
    simp [State.portAt, ht]
  rw [hport]
  exact h (k + 1) (Nat.succ_lt_succ hk)

/-- A busy block without a reset takes its driver case. -/
theorem step_of_driveCase {s u : State} (hr : s.port.rst = false) (hu : DriveCase s.nextCycle u) :
    step s = .next { u with elapsed := s.nextElapsed } := by
  rw [step_of_busy hr hu.busy, State.driverStep, hu.driveCase_eq]
  rfl

/-- Without a reset the block makes the driver's run. -/
theorem DriverRun.run_eq {n : Nat} {s t : State} (h : DriverRun n s t) (hr : s.noResetFor n) : run n s = .next t := by
  induction h with
  | refl => rfl
  | step hu _ ih =>
    obtain ⟨-, -, -, -, hin, -⟩ := hu.frame
    rw [run_succ (step_of_driveCase hr.port hu)]
    exact ih (hr.tail hin)

end Sys2Proof.Machine
end

section
/-! One frame: sixteen bits sent and latched, the clear frame at the end of a show, the dwell of a digit (42_driver.md
R123 to R125, R130, R131). -/

namespace Sys2Proof.Machine

@[simp] theorem sbit_zero (cfg : Config) (k : Nat) : sbit cfg 0#16 k = false := by
  cases h : cfg.bitOrder <;> simp [sbit, h]

@[simp] theorem firstRx_zero (cfg : Config) : firstRx cfg 0#16 = 0#8 := by
  cases h : cfg.bitOrder <;> simp [firstRx, h]

@[simp] theorem secondRx_zero (cfg : Config) : secondRx cfg 0#16 = 0#8 := by
  cases h : cfg.bitOrder <;> simp [secondRx, h]

@[simp] theorem indexRx_zero (cfg : Config) : indexRx cfg 0#16 = 0#8 := by
  cases h : cfg.firstByte <;> simp [indexRx, h]

@[simp] theorem segRx_zero (cfg : Config) : segRx cfg 0#16 = 0#8 := by
  cases h : cfg.firstByte <;> simp [segRx, h]

/-- No index bit drives anything under CA, and no segment bit under CC. -/
@[simp] theorem lit_zero (cfg : Config) (i seg : Nat) : lit cfg 0#16 i seg = false := by
  cases h : cfg.polarity <;> simp [lit, h]

/-- Zero outputs light nothing (60_exceptions.md R179). -/
theorem State.dark_of_out_eq_zero {s : State} (h : s.out = 0#16) : s.dark := by
  intro i seg
  rw [State.lit, h, lit_zero]

/-- A chain that holds the clear frame is all zero. -/
theorem eq_zero_of_holdsFrame_zero {cfg : Config} {image : FrameWord} (h : holdsFrame cfg image 0#16) :
    image = 0#16 := by
  refine BitVec.eq_of_getLsbD_eq fun i hi => ?_
  rw [h ⟨i, hi⟩, sbit_zero, BitVec.getLsbD_zero]

/-- `s` stands in the frame that LATCH_LO began in state `f`, with `k` of the sixteen bits in the chain. -/
structure SentBits (f : State) (k : Nat) (s : State) : Prop where
  st : s.st = if k < 16 then .shiftA else .latchHi
  bit : k < 16 → s.bit.toNat = k
  cfg : s.cfg = f.cfg
  clr : s.clr = f.clr
  dig : s.dig = f.dig
  sreg : s.sreg = f.nextWord
  latchO : s.latchO = false
  sdataO : 0 < k → s.sdataO = sbit f.cfg f.nextWord (k - 1)
  stage : ∀ m < k, s.stage.getLsbD m = sbit f.cfg f.nextWord (k - 1 - m)

theorem exists_sentBits_zero {f : State} (hst : f.st = .latchLo) : ∃ t, DriverRun 1 f t ∧ SentBits f 0 t :=
  ⟨_, .single (.latchLo hst),
    { st := rfl, bit := fun _ => rfl, cfg := rfl, clr := rfl, dig := rfl, sreg := rfl, latchO := rfl
      sdataO := fun h => absurd h (Nat.lt_irrefl 0)
      stage := fun m h => absurd h (Nat.not_lt_zero m) }⟩

/-- SHIFT_B said once, for the last bit and every other. -/
theorem DriverRun.shiftB {s : State} (hst : s.st = .shiftB) :
    DriverRun 1 s
      { s.nextCycle.drivePins s.latchO true s.sdataO with
        bit := if s.bit = 15#4 then s.bit else s.bit + 1#4
        st := if s.bit = 15#4 then .latchHi else .shiftA
        elapsed := s.nextElapsed } := by
  by_cases hlast : s.bit = 15#4
  · simp only [if_pos hlast]
    exact .single (.shiftBLast hst hlast)
  · simp only [if_neg hlast]
    exact .single (.shiftBMore hst hlast)

/-- The chain after one more shift: the new bit in stage 0, every other one place on. -/
theorem getLsbD_shiftIn_of_sent {cfg : Config} {x w : FrameWord} {k : Nat} (hk : k < 16)
    (h : ∀ m < k, x.getLsbD m = sbit cfg w (k - 1 - m)) :
    ∀ m < k + 1, (shiftIn x (sbit cfg w k)).getLsbD m = sbit cfg w (k - m) := by
  intro m hm
  cases m with
  | zero => exact shiftIn_zero _ _
  | succ m =>
    rw [shiftIn_succ _ _ m.succ_ne_zero (by omega), Nat.succ_sub_one, h m (by omega)]
    congr 1
    omega

/-- SHIFT_A and SHIFT_B send one bit. -/
theorem SentBits.succ {f s : State} {k : Nat} (h : SentBits f k s) (hk : k < 16) :
    ∃ t, DriverRun 2 s t ∧ SentBits f (k + 1) t := by
  have hbit : sbit s.cfg s.sreg s.bit.toNat = sbit f.cfg f.nextWord k := by rw [h.cfg, h.sreg, h.bit hk]
  have hlast : s.bit = 15#4 ↔ ¬ k + 1 < 16 := by
    have h15 : (15#4).toNat = 15 := rfl
    rw [← BitVec.toNat_inj, h.bit hk, h15]
    omega
  refine ⟨_, .step (.shiftA (h.st.trans (if_pos hk))) (.shiftB rfl), ?_⟩
  refine
    { st := ?_, bit := fun hk' => ?_, cfg := h.cfg, clr := h.clr, dig := h.dig, sreg := h.sreg, latchO := h.latchO
      sdataO := fun _ => hbit
      stage := ?_ }
  · have hst : (if s.bit = 15#4 then DriverState.latchHi else .shiftA) = if k + 1 < 16 then .shiftA else .latchHi := by
      simp only [hlast, ite_not]
    exact hst
  · have hmore : ¬ s.bit = 15#4 := fun he => hlast.mp he hk'
    have hnext : (s.bit + 1#4).toNat = k + 1 := by
      rw [BitVec.toNat_add, h.bit hk]
      exact Nat.mod_eq_of_lt hk'
    simpa [hmore] using hnext
  · simpa [hbit] using getLsbD_shiftIn_of_sent hk h.stage

/-- `1 + 2k` cycles after LATCH_LO, `k` bits are in the chain. -/
theorem exists_sentBits {f : State} (hst : f.st = .latchLo) {k : Nat} (hk : k ≤ 16) :
    ∃ t, DriverRun (1 + 2 * k) f t ∧ SentBits f k t := by
  induction k with
  | zero => exact exists_sentBits_zero hst
  | succ k ih =>
    obtain ⟨s, hs, hsent⟩ := ih (Nat.le_of_succ_le hk)
    obtain ⟨t, ht, hsent'⟩ := hsent.succ hk
    exact ⟨t, hs.trans ht, hsent'⟩

theorem SentBits.holdsFrame {f s : State} (h : SentBits f 16 s) : holdsFrame f.cfg s.stage f.nextWord :=
  fun m => h.stage m.val m.isLt

/-- What the clear frame leaves at the end of every show (R124, R130). -/
structure ShowEnded (s : State) : Prop where
  st : s.st = .idle
  mode : s.mode = .none
  latchO : s.latchO = true
  sclkO : s.sclkO = false
  sdataO : s.sdataO = false
  out : s.out = 0#16

/-- The clear frame takes 34 cycles and ends the show (R131). -/
theorem exists_clearFrame {f : State} (hst : f.st = .latchLo) (hclr : f.clr = true) :
    ∃ t, DriverRun 34 f t ∧ ShowEnded t := by
  obtain ⟨s, hs, hsent⟩ := exists_sentBits hst (Nat.le_refl 16)
  have hword : f.nextWord = 0#16 := if_pos hclr
  have hstage : s.stage = 0#16 := eq_zero_of_holdsFrame_zero (hword ▸ hsent.holdsFrame)
  have hsdata : s.sdataO = false := by rw [hsent.sdataO (by decide), hword, sbit_zero]
  refine ⟨_, hs.trans (.single (.latchHiClear hsent.st (hsent.clr.trans hclr))),
    { st := rfl, mode := rfl, latchO := rfl, sclkO := rfl, sdataO := hsdata, out := ?_ }⟩
  simp [hsent.latchO, hstage]

/-- A digit frame, from LATCH_LO to its first DWELL cycle. -/
theorem exists_firstDwell {f : State} (hst : f.st = .latchLo) (hclr : f.clr = false) :
    ∃ t, DriverRun 34 f t ∧ t.st = .dwell ∧ t.cnt = f.cfg.dwellCycles ∧ t.dig = f.dig ∧ t.clr = false := by
  obtain ⟨s, hs, hsent⟩ := exists_sentBits hst (Nat.le_refl 16)
  have hclr' : s.clr = false := hsent.clr.trans hclr
  exact ⟨_, hs.trans (.single (.latchHiDigit hsent.st hclr')), rfl, congrArg Config.dwellCycles hsent.cfg, hsent.dig,
    hclr'⟩

/-- The dwell counter runs down to 1. -/
theorem exists_lastDwell {c : Nat} {s : State} (hst : s.st = .dwell) (hcnt : s.cnt = c + 1) :
    ∃ t, DriverRun c s t ∧ t.st = .dwell ∧ t.cnt = 1 ∧ t.dig = s.dig ∧ t.clr = s.clr := by
  induction c generalizing s with
  | zero => exact ⟨s, .refl s, hst, hcnt, rfl, rfl⟩
  | succ c ih =>
    have hmore : 1 < s.nextCycle.cnt := by rw [State.nextCycle_cnt, hcnt]; omega
    have hdown : s.cnt - 1 = c + 1 := by rw [hcnt]; rfl
    obtain ⟨t, ht, htst, htcnt, htdig, htclr⟩ :=
      ih (s := { s.nextCycle with cnt := s.cnt - 1, elapsed := s.nextElapsed }) hst hdown
    exact ⟨t, .step (.dwellOn hst hmore) ht, htst, htcnt, htdig, htclr⟩

/-- A digit frame up to its last DWELL cycle (R131). -/
theorem exists_digitFrame {f : State} (hst : f.st = .latchLo) (hclr : f.clr = false) (hdw : 1 ≤ f.cfg.dwellCycles) :
    ∃ t, DriverRun (33 + f.cfg.dwellCycles) f t ∧ t.st = .dwell ∧ t.cnt = 1 ∧ t.dig = f.dig ∧ t.clr = false := by
  obtain ⟨s, hs, hsst, hscnt, hsdig, hsclr⟩ := exists_firstDwell hst hclr
  obtain ⟨c, hc⟩ : ∃ c, f.cfg.dwellCycles = c + 1 := Nat.exists_eq_add_of_le' hdw
  obtain ⟨t, ht, htst, htcnt, htdig, htclr⟩ := exists_lastDwell hsst (hscnt.trans hc)
  have hlen : 33 + f.cfg.dwellCycles = 34 + c := by omega
  exact ⟨t, (hs.trans ht).of_length_eq hlen, htst, htcnt, htdig.trans hsdig, htclr.trans hsclr⟩

end Sys2Proof.Machine
end

section
/-! The timed repeat: one pass after another while the time allows, and the clear frame at the end (42_driver.md R127,
R128, R132). -/

namespace Sys2Proof.Machine

/-- A digit frame with digits left in the pass leads to the frame of the next one. -/
theorem exists_nextDigit {f : State} (hst : f.st = .latchLo) (hclr : f.clr = false) (hdw : 1 ≤ f.cfg.dwellCycles)
    (hdig : f.dig.toNat + 1 < f.cfg.digitCount) :
    ∃ t, DriverRun f.cfg.frameCycles f t ∧ t.st = .latchLo ∧ t.dig.toNat = f.dig.toNat + 1 ∧ t.clr = false := by
  obtain ⟨s, hs, hsst, hscnt, hsdig, hsclr⟩ := exists_digitFrame hst hclr hdw
  have hmore : s.dig.toNat + 1 < s.cfg.digitCount := by rwa [hs.cfg_eq, hsdig]
  have hnext : (s.dig + 1#3).toNat = f.dig.toNat + 1 := by
    rw [BitVec.toNat_add, hsdig]
    exact Nat.mod_eq_of_lt (hdig.trans_le f.cfg.digitCount_le)
  have hlen : f.cfg.frameCycles = 33 + f.cfg.dwellCycles + 1 := by rw [Config.frameCycles]; omega
  have hrun := hs.trans (.single (.dwellNext hsst hscnt.le hmore))
  exact ⟨_, hrun.of_length_eq hlen, rfl, hnext, hsclr⟩

/-- The last digit frame of a pass of a timed repeat leads to CHECK, with no clear frame in between (R128). -/
theorem exists_check_of_lastDigit {f : State} (hst : f.st = .latchLo) (hclr : f.clr = false) (hm : f.mode = .timed)
    (hdw : 1 ≤ f.cfg.dwellCycles) (hdig : f.cfg.digitCount ≤ f.dig.toNat + 1) :
    ∃ t, DriverRun f.cfg.frameCycles f t ∧ t.st = .check := by
  obtain ⟨s, hs, hsst, hscnt, hsdig, -⟩ := exists_digitFrame hst hclr hdw
  have hlast : s.cfg.digitCount ≤ s.dig.toNat + 1 := by rwa [hs.cfg_eq, hsdig]
  have htimed : s.mode = .timed := (hs.mode_of_busy (by simp [hsst])).trans hm
  have honce : s.mode ≠ .once := by simp [htimed]
  have hlen : f.cfg.frameCycles = 33 + f.cfg.dwellCycles + 1 := by rw [Config.frameCycles]; omega
  have hrun := hs.trans (.single (.dwellCheck hsst hscnt.le hlast honce))
  exact ⟨_, hrun.of_length_eq hlen, rfl⟩

/-- The rest of a pass of a timed repeat, `j` digits after the present one: up to the next CHECK (R128, R131). -/
theorem exists_check_of_latchLo {j : Nat} {f : State} (hst : f.st = .latchLo) (hclr : f.clr = false)
    (hm : f.mode = .timed) (hdw : 1 ≤ f.cfg.dwellCycles) (hj : f.dig.toNat + j + 1 = f.cfg.digitCount) :
    ∃ t, DriverRun ((j + 1) * f.cfg.frameCycles) f t ∧ t.st = .check := by
  induction j generalizing f with
  | zero =>
    rw [Nat.zero_add, Nat.one_mul]
    exact exists_check_of_lastDigit hst hclr hm hdw hj.ge
  | succ j ih =>
    obtain ⟨s, hs, hsst, hsdig, hsclr⟩ := exists_nextDigit hst hclr hdw (by omega)
    have hsm : s.mode = .timed := (hs.mode_of_busy (by simp [hsst])).trans hm
    obtain ⟨t, ht, htst⟩ := ih hsst hsclr hsm (by rwa [hs.cfg_eq]) (by rw [hs.cfg_eq, hsdig]; omega)
    have hlen : (j + 1 + 1) * f.cfg.frameCycles = f.cfg.frameCycles + (j + 1) * s.cfg.frameCycles := by
      rw [hs.cfg_eq, Nat.succ_mul, Nat.add_comm]
    exact ⟨t, (hs.trans ht).of_length_eq hlen, htst⟩

/-- With time for a pass, the next CHECK comes one pass period later (R127, R131). -/
theorem exists_nextCheck {c : State} (hst : c.st = .check) (hm : c.mode = .timed) (hdw : 1 ≤ c.cfg.dwellCycles)
    (htime : c.elapsed + c.cfg.passPeriod < c.dur) : ∃ t, DriverRun c.cfg.passPeriod c t ∧ t.st = .check := by
  have hpass : DriveCase c.nextCycle _ := .checkPass hst htime
  have hdigits : 0 + (c.cfg.digitCount - 1) + 1 = c.cfg.digitCount := by have := c.cfg.digitCount_pos; omega
  obtain ⟨t, ht, htst⟩ := exists_check_of_latchLo
    (f := { c.nextCycle with dig := 0#3, clr := false, st := .latchLo, elapsed := c.nextElapsed })
    rfl rfl hm hdw hdigits
  have hlen : c.cfg.passPeriod = 1 + (c.cfg.digitCount - 1 + 1) * c.cfg.frameCycles := by
    rw [Config.passPeriod, Nat.sub_add_cancel c.cfg.digitCount_pos]
  exact ⟨t, ((DriverRun.single hpass).trans ht).of_length_eq hlen, htst⟩

/-- Pass `k` (from 0) is one of the `n` exactly when `(k + 1)P < dur` (R132). -/
theorem lt_passCount_iff (cfg : Config) (dur k : Nat) :
    k < cfg.passCount dur ↔ (k + 1) * cfg.passPeriod < dur := by
  have hpos : 0 < cfg.passPeriod := by rw [Config.passPeriod]; omega
  rw [Config.passCount]
  split
  · omega
  · rw [Nat.lt_iff_add_one_le, Nat.le_div_iff_mul_le hpos]
    omega

/-- The passes end before `dur`. -/
theorem passCount_mul_lt {cfg : Config} {dur : Nat} (h : 1 ≤ cfg.passCount dur) :
    cfg.passCount dur * cfg.passPeriod < dur := by
  have hlast := (lt_passCount_iff cfg dur (cfg.passCount dur - 1)).mp (by omega)
  rwa [Nat.sub_add_cancel h] at hlast

theorem passCount_mul_le (cfg : Config) (dur : Nat) : cfg.passCount dur * cfg.passPeriod ≤ dur := by
  rcases Nat.eq_zero_or_pos (cfg.passCount dur) with hzero | hpos
  · rw [hzero, Nat.zero_mul]
    exact Nat.zero_le dur
  · exact (passCount_mul_lt hpos).le

/-- CHECK number `k` of a timed repeat whose first CHECK is in state `c`, up to the one that ends it. -/
theorem exists_check {c : State} (hst : c.st = .check) (hm : c.mode = .timed) (hel : c.elapsed = 0)
    (hdw : 1 ≤ c.cfg.dwellCycles) {k : Nat} (hk : k ≤ c.cfg.passCount c.dur) :
    ∃ t, DriverRun (k * c.cfg.passPeriod) c t ∧ t.st = .check := by
  induction k with
  | zero => exact ⟨c, by simpa using DriverRun.refl c, hst⟩
  | succ k ih =>
    have htime : k * c.cfg.passPeriod + c.cfg.passPeriod < c.dur := by
      rw [← Nat.succ_mul]
      exact (lt_passCount_iff _ _ _).mp hk
    obtain ⟨s, hs, hsst⟩ := ih (Nat.le_of_succ_le hk)
    obtain ⟨hcfg, -, hdur⟩ := hs.frame
    have hsm : s.mode = .timed := (hs.mode_of_busy (by simp [hsst])).trans hm
    have hsel : s.elapsed = k * c.cfg.passPeriod := by rw [hs.elapsed_of_timed hm, hel, Nat.zero_add]
    obtain ⟨t, ht, htst⟩ := exists_nextCheck hsst hsm (by rwa [hcfg]) (by rwa [hsel, hcfg, hdur])
    rw [hcfg] at ht
    exact ⟨t, (hs.trans ht).of_length_eq (Nat.succ_mul k _), htst⟩

/-- Without time for a pass, the clear frame ends the show 35 cycles after CHECK. -/
theorem exists_end_of_check {c : State} (hst : c.st = .check) (htime : c.dur ≤ c.elapsed + c.cfg.passPeriod) :
    ∃ t, DriverRun 35 c t ∧ ShowEnded t := by
  have hclear : DriveCase c.nextCycle _ := .checkClear hst htime
  obtain ⟨t, ht, hend⟩ := exists_clearFrame
    (f := { c.nextCycle with clr := true, st := .latchLo, elapsed := c.nextElapsed }) rfl rfl
  exact ⟨t, (DriverRun.single hclear).trans ht, hend⟩

/-- A whole timed repeat from its first CHECK: `35 + nP` cycles to its end (R132). -/
theorem exists_end_of_timedRepeat {c : State} (hst : c.st = .check) (hm : c.mode = .timed) (hel : c.elapsed = 0)
    (hdw : 1 ≤ c.cfg.dwellCycles) :
    ∃ t, DriverRun (c.cfg.passCount c.dur * c.cfg.passPeriod + 35) c t ∧ ShowEnded t := by
  obtain ⟨s, hs, hsst⟩ := exists_check hst hm hel hdw (Nat.le_refl _)
  obtain ⟨hcfg, -, hdur⟩ := hs.frame
  have htime : s.dur ≤ s.elapsed + s.cfg.passPeriod := by
    rw [hs.elapsed_of_timed hm, hel, hcfg, hdur, Nat.zero_add, ← Nat.succ_mul, ← Nat.not_lt, ← lt_passCount_iff]
    exact Nat.lt_irrefl _
  obtain ⟨t, ht, hend⟩ := exists_end_of_check hsst htime
  exact ⟨t, hs.trans ht, hend⟩

/-- The state after the accept cycle of a SHOWFOR: the first CHECK (R121). -/
def State.startTimed (s : State) (d : Nat) : State :=
  { s.nextCycle with
    mode := .timed, dur := scaledDuration s.cfg d, elapsed := 0, clr := false, dig := 0#3, st := .check }

theorem step_of_showFor {s : State} {d : Nat} (hr : s.port.rst = false) (hi : s.st = .idle)
    (hv : s.port.cmdValid = true) (hd : decode s.port.cmd = .ok (.showFor d)) : step s = .next (s.startTimed d) :=
  step_of_command hr hi hv hd

end Sys2Proof.Machine

namespace Sys2Proof.Proofs
open Sys2Proof.Machine

/-- Settles O42: after the accept cycle the block is at CHECK with `elapsed = 0`; by induction on `k` it is at CHECK
again every pass period, while the test of R127 lets a pass start; the last CHECK sends the clear frame. Every cycle of
that run is busy and counts in `elapsed`. -/
theorem showForMakesItsPassesAndEndsDark : Obligations.ShowForMakesItsPassesAndEndsDark := by
  unfold Obligations.ShowForMakesItsPassesAndEndsDark
  intro s d n p hi hv hd hdw hp hn hr
  let c := s.startTimed d
  obtain rfl : p = c.cfg.passPeriod := hp
  obtain rfl : n = c.cfg.passCount c.dur := hn
  have hstart (k : Nat) : run (1 + k) s = run k c :=
    run_add (run_succ (step_of_showFor (hr 0 (by omega)) hi hv hd))
  have hquiet : c.noResetFor (c.cfg.passCount c.dur * c.cfg.passPeriod + 35) :=
    State.noResetFor.tail (hr.mono (by omega)) rfl
  obtain ⟨t, ht, hend⟩ := exists_end_of_timedRepeat (c := c) rfl rfl rfl hdw
  refine ⟨fun k hk => ?_, fun k => lt_passCount_iff _ _ k, passCount_mul_lt, fun k hk1 hk => ?_, ?_⟩
  · obtain ⟨u, hu, hust⟩ := exists_check (c := c) rfl rfl rfl hdw hk
    have hle := Nat.mul_le_mul_right c.cfg.passPeriod hk
    refine ⟨u, (hstart _).trans (hu.run_eq (hquiet.mono (by omega))), hust, ?_⟩
    exact (hu.elapsed_of_timed rfl).trans (Nat.zero_add _)
  · obtain ⟨j, rfl⟩ := Nat.exists_eq_add_of_le hk1
    obtain ⟨u, hu, hbusy⟩ := ht.exists_busy_of_lt (k := j) (by omega)
    exact ⟨u, (hstart j).trans (hu.run_eq (hquiet.mono (by omega))), hbusy⟩
  · have helapsed : t.elapsed = c.cfg.passCount c.dur * c.cfg.passPeriod + 35 :=
      (ht.elapsed_of_timed rfl).trans (Nat.zero_add _)
    have hbound : t.elapsed ≤ c.dur + 35 := helapsed ▸ Nat.add_le_add_right (passCount_mul_le _ _) 35
    have hlen (m : Nat) : 36 + m = 1 + (m + 35) := by omega
    obtain ⟨-, hfb, -⟩ := ht.frame
    refine ⟨t, ?_, hend.st, State.cmdReady_of_idle hend.st, hend.mode, helapsed, hbound, hend.latchO, hend.sclkO,
      hend.sdataO, hend.out, State.dark_of_out_eq_zero hend.out, hfb⟩
    rw [hlen, hstart, ht.run_eq hquiet]

end Sys2Proof.Proofs
end

section
/-! The host's integers in decimal: the recursions of `countCharacters` and `decimal` without their bounds, and what
they say of the characters of an integer (44_host_set_print.md R151, R152). -/

namespace Sys2Proof.Machine

/-! ### `countCharacters` (R151) -/

/-- Below magnitude ten the bound on the recursion plays no part. -/
theorem countCharactersUpTo_of_natAbs_lt {v : Int} (h : v.natAbs < 10) (fuel : Nat) :
    countCharactersUpTo fuel v = if v < 0 then 2 else 1 := by
  cases fuel <;> simp [countCharactersUpTo, h]

/-- Any two bounds that reach the magnitude give the same count. -/
theorem countCharactersUpTo_eq_of_le {f g : Nat} {v : Int} (hf : v.natAbs ≤ f) (hg : v.natAbs ≤ g) :
    countCharactersUpTo f v = countCharactersUpTo g v := by
  induction f generalizing g v with
  | zero =>
    have h : v.natAbs < 10 := by omega
    simp only [countCharactersUpTo_of_natAbs_lt h]
  | succ f ih =>
    by_cases h : v.natAbs < 10
    · simp only [countCharactersUpTo_of_natAbs_lt h]
    · obtain _ | g := g
      · omega
      · have hq : (v.tdiv 10).natAbs = v.natAbs / 10 := Int.natAbs_tdiv v 10
        have hrec : countCharactersUpTo f (v.tdiv 10) = countCharactersUpTo g (v.tdiv 10) := ih (by omega) (by omega)
        simp only [countCharactersUpTo, if_neg h, hrec]

theorem countCharacters_of_natAbs_lt {v : Int} (h : v.natAbs < 10) : countCharacters v = if v < 0 then 2 else 1 :=
  countCharactersUpTo_of_natAbs_lt h _

theorem countCharacters_of_le_natAbs {v : Int} (h : 10 ≤ v.natAbs) :
    countCharacters v = 1 + countCharacters (v.tdiv 10) := by
  have hq : (v.tdiv 10).natAbs = v.natAbs / 10 := Int.natAbs_tdiv v 10
  have hone : countCharacters v = countCharactersUpTo (v.natAbs + 1) v :=
    countCharactersUpTo_eq_of_le le_rfl (Nat.le_succ _)
  have hrec : countCharactersUpTo v.natAbs (v.tdiv 10) = countCharacters (v.tdiv 10) :=
    countCharactersUpTo_eq_of_le (by omega) le_rfl
  rw [hone, countCharactersUpTo, if_neg (Nat.not_lt.mpr h), hrec]

/-- From magnitude ten on the truncated quotient keeps the sign. -/
theorem tdiv_ten_neg_iff {v : Int} (h : 10 ≤ v.natAbs) : v.tdiv 10 < 0 ↔ v < 0 := by
  have hsign : (v.tdiv 10).sign = v.sign :=
    (Int.sign_tdiv v 10).trans ((if_neg (Nat.not_lt.mpr h)).trans (Int.mul_one _))
  rw [← Int.sign_eq_neg_one_iff_neg, hsign, Int.sign_eq_neg_one_iff_neg]

/-! ### `decimal` (R152) -/

@[simp] theorem toNat_digitCode (n : Nat) : (digitCode n).toNat = 0x30 + n % 10 := by
  rw [digitCode, BitVec.toNat_ofNat]
  omega

/-- The digits found so far stay behind those still to come. -/
theorem decimalUpTo_append (fuel n : Nat) (acc : List Byte) :
    decimalUpTo fuel n acc = decimalUpTo fuel n [] ++ acc := by
  induction fuel generalizing n acc with
  | zero => rfl
  | succ fuel ih =>
    by_cases h : n < 10
    · simp [decimalUpTo, h]
    · simp only [decimalUpTo, if_neg h]
      rw [ih, ih (n / 10) [digitCode n], List.append_assoc, List.singleton_append]

theorem decimalUpTo_of_lt {n : Nat} (h : n < 10) (fuel : Nat) : decimalUpTo fuel n [] = [digitCode n] := by
  cases fuel <;> simp [decimalUpTo, h]

/-- Any two bounds that reach `n` give the same digits. -/
theorem decimalUpTo_eq_of_le {f g n : Nat} (hf : n ≤ f) (hg : n ≤ g) : decimalUpTo f n [] = decimalUpTo g n [] := by
  induction f generalizing g n with
  | zero =>
    have h : n < 10 := by omega
    simp only [decimalUpTo_of_lt h]
  | succ f ih =>
    by_cases h : n < 10
    · simp only [decimalUpTo_of_lt h]
    · obtain _ | g := g
      · omega
      · have hrec : decimalUpTo f (n / 10) [] = decimalUpTo g (n / 10) [] := ih (by omega) (by omega)
        simp only [decimalUpTo, if_neg h]
        rw [decimalUpTo_append, hrec, ← decimalUpTo_append]

theorem decimal_of_lt {n : Nat} (h : n < 10) : decimal n = [digitCode n] :=
  decimalUpTo_of_lt h n

theorem decimal_of_le {n : Nat} (h : 10 ≤ n) : decimal n = decimal (n / 10) ++ [digitCode n] := by
  have hone : decimal n = decimalUpTo (n + 1) n [] := decimalUpTo_eq_of_le le_rfl (Nat.le_succ n)
  have hrec : decimalUpTo n (n / 10) [] = decimal (n / 10) := decimalUpTo_eq_of_le (by omega) le_rfl
  rw [hone, decimalUpTo, if_neg (Nat.not_lt.mpr h), decimalUpTo_append, hrec]

/-- Induction along the decimal digits: one digit, and one more digit at the end. -/
theorem decimal_induction {P : Nat → Prop} (digit : ∀ n, n < 10 → P n) (more : ∀ n, 10 ≤ n → P (n / 10) → P n)
    (n : Nat) : P n := by
  induction n using Nat.strong_induction_on with
  | _ n ih =>
    obtain h | h := Nat.lt_or_ge n 10
    · exact digit n h
    · exact more n h (ih _ (by omega))

theorem decimal_ne_nil (n : Nat) : decimal n ≠ [] := by
  obtain h | h := Nat.lt_or_ge n 10
  · simp [decimal_of_lt h]
  · simp [decimal_of_le h]

theorem isDigit_of_mem_decimal {n : Nat} : ∀ c ∈ decimal n, 0x30 ≤ c.toNat ∧ c.toNat ≤ 0x39 := by
  have hcode (m : Nat) : 0x30 ≤ (digitCode m).toNat ∧ (digitCode m).toNat ≤ 0x39 := by
    rw [toNat_digitCode]
    omega
  induction n using decimal_induction with
  | digit n h => simpa [decimal_of_lt h] using hcode n
  | more n h ih =>
    intro c hc
    rw [decimal_of_le h, List.mem_append, List.mem_singleton] at hc
    obtain hc | rfl := hc
    · exact ih c hc
    · exact hcode n

/-- Reading the decimal form back gives the number. -/
theorem foldl_decimal (n : Nat) : (decimal n).foldl (fun m c => m * 10 + (c.toNat - 0x30)) 0 = n := by
  induction n using decimal_induction with
  | digit n h => simp [decimal_of_lt h, Nat.mod_eq_of_lt h]
  | more n h ih =>
    rw [decimal_of_le h, List.foldl_append, ih]
    simp [Nat.div_add_mod']

/-- No number but 0 starts with the code of a zero. -/
theorem eq_zero_of_head?_decimal {n : Nat} (hz : (decimal n).head? = some 0x30#8) : n = 0 := by
  induction n using decimal_induction with
  | digit n h =>
    have hcode : digitCode n = 0x30#8 := by simpa [decimal_of_lt h] using hz
    have hval := congrArg BitVec.toNat hcode
    rw [toNat_digitCode, Nat.mod_eq_of_lt h] at hval
    simpa using hval
  | more n h ih =>
    rw [decimal_of_le h, List.head?_append_of_ne_nil _ (decimal_ne_nil _)] at hz
    have := ih hz
    omega

/-! ### The characters of an integer (R152) -/

theorem integerChars_eq (v : Int) : integerChars v = (if v < 0 then [minusCode] else []) ++ decimal v.natAbs := by
  rw [integerChars]
  split <;> rfl

theorem length_integerChars (v : Int) : (integerChars v).length = countCharacters v := by
  rw [integerChars_eq]
  induction hn : v.natAbs using decimal_induction generalizing v with
  | digit n h =>
    subst hn
    rw [decimal_of_lt h, countCharacters_of_natAbs_lt h]
    split <;> rfl
  | more n h ih =>
    subst hn
    have hq := ih (v.tdiv 10) (Int.natAbs_tdiv v 10)
    simp only [tdiv_ten_neg_iff h] at hq
    rw [decimal_of_le h, countCharacters_of_le_natAbs h, ← hq, ← List.append_assoc, List.length_append,
      List.length_singleton, Nat.add_comm]

end Sys2Proof.Machine

namespace Sys2Proof.Proofs
open Sys2Proof.Machine

/-- Settles O56: the bound on the recursion is the magnitude itself, and the quotient's magnitude is smaller. -/
theorem countCharactersFollowsItsRecursion : Obligations.CountCharactersFollowsItsRecursion := by
  unfold Obligations.CountCharactersFollowsItsRecursion
  refine ⟨fun v => ⟨fun h0 h9 => ?_, fun h9 h1 => ?_, countCharacters_of_le_natAbs⟩, rfl⟩
  · rw [countCharacters_of_natAbs_lt (by omega), if_neg (by omega)]
  · rw [countCharacters_of_natAbs_lt (by omega), if_pos (by omega)]

/-- Settles O57: the digits are the decimal form of the magnitude, and each clause is an induction along them. -/
theorem integerCharsAreTheMinimalDecimal : Obligations.IntegerCharsAreTheMinimalDecimal := by
  unfold Obligations.IntegerCharsAreTheMinimalDecimal
  intro v
  refine ⟨decimal v.natAbs, integerChars_eq v, isDigit_of_mem_decimal, foldl_decimal _, fun hz => ?_,
    length_integerChars v⟩
  obtain rfl : v = 0 := Int.natAbs_eq_zero.mp (eq_zero_of_head?_decimal hz)
  exact ⟨rfl, rfl⟩

end Sys2Proof.Proofs
end

section
/-! The one LOAD of SET: its point lies on the display, and its characters are the formatted ones with spaces above
(44_host_set_print.md R155 to R157). -/

namespace Sys2Proof.Machine

/-- A point that is shown is shown on the display (R156). -/
theorem pointIndex_lt {c : Nat} {v : HostValue} {align : Alignment} {pi : Nat}
    (h : pointIndex c v align = some pi) : pi < c := by
  cases v with
  | real q d =>
    rw [pointIndex] at h
    split at h
    next hin =>
      obtain ⟨-, hlo, hhi⟩ := hin
      obtain rfl := Option.some.inj h
      omega
    next => cases h
  | integer | character | text => cases h

theorem getElem?_formatted {c p : Nat} (h : p < c) (chars : List Byte) (align : Alignment) :
    (formatted c chars align)[p]? = some (formattedAt c chars align p) := by
  simp [formatted, h]

theorem wf_expandSet {c : Nat} (hc : c ≤ 8) (v : HostValue) (align : Alignment) : (expandSet c v align).wf = true := by
  rw [expandSet, Instr.wf, decide_eq_true_eq]
  cases h : pointIndex c v align with
  | none => decide
  | some pi => exact (pointIndex_lt h).trans_le hc

end Sys2Proof.Machine

namespace Sys2Proof.Proofs
open Sys2Proof.Machine

/-- Settles O59: SET is a LOAD by definition; its characters are compared position by position with C, and its point
is the value's where there is one. -/
theorem setExpandsToItsLoad : Obligations.SetExpandsToItsLoad := by
  unfold Obligations.SetExpandsToItsLoad
  intro c v a hc
  refine ⟨wf_expandSet hc v a, _, _, _, rfl, fun p hp => ?_, fun p hp => ?_, ?_⟩
  · rw [getElem?_formatted hp]
    simp [hp]
  · simp [Nat.not_lt.mpr hp, spaceCode]
  · cases h : pointIndex c v a with
    | none => simp
    | some pi => simpa using pointIndex_lt h

end Sys2Proof.Proofs
end

section
/-! Refusals: a run that is refused stays refused (60_exceptions.md R171). -/

namespace Sys2Proof.Machine

theorem run_succ_of_refused {s : State} {r : Refusal} (h : step s = .refused r) (n : Nat) :
    run (n + 1) s = .refused r := by
  simp [run, h]

/-- Longer runs keep a refusal. -/
theorem run_add_of_refused {n : Nat} {s : State} {r : Refusal} (h : run n s = .refused r) (m : Nat) :
    run (n + m) s = .refused r := by
  induction n generalizing s with
  | zero => cases h
  | succ n ih =>
    rw [Nat.succ_add]
    cases hs : step s with
    | next t =>
      rw [run_succ hs] at h ⊢
      exact ih h
    | fault f => cases f
    | refused r' =>
      rw [run_succ_of_refused hs] at h ⊢
      exact h

end Sys2Proof.Machine

namespace Sys2Proof.Proofs
open Sys2Proof.Machine

/-- Settles O18: by O14 the decoder rejects a word that no row admits, so the accept cycle is refused, and a run goes no
further than its first refusal. -/
theorem acceptedReservedWordIsRefused : Obligations.AcceptedReservedWordIsRefused := by
  unfold Obligations.AcceptedReservedWordIsRefused
  refine ⟨fun s hr hi hv hnone => ?_, fun _ m _ _ h => run_add_of_refused h m⟩
  obtain ⟨-, hreject⟩ := atMostOneRowAdmitsAWord s.port.cmd
  obtain ⟨e, hd⟩ := hreject.mp hnone
  exact run_succ_of_refused (step_of_reserved hr hi hv hd)

end Sys2Proof.Proofs
end

section
/-! The chain in every cycle: it answers the pins of the next state, whatever the cycle does (60_exceptions.md R174,
R175). -/

namespace Sys2Proof.Machine

/-- Pins that keep their values have no edge, so a chain that keeps its own answers them. -/
theorem pins_of_unchanged {s t : State} (hlatch : t.latchO = s.latchO) (hsclk : t.sclkO = s.sclkO)
    (hstage : t.stage = s.stage) (hout : t.out = s.out) :
    t.stage = (s.drivePins t.latchO t.sclkO t.sdataO).stage ∧
      t.out = (s.drivePins t.latchO t.sclkO t.sdataO).out := by
  simp [hlatch, hsclk, hstage, hout]

/-- The stages and outputs after a cycle are those of a pin write with the pins of the next state. -/
theorem StepCase.pins {s t : State} (h : StepCase s t) :
    t.stage = (s.drivePins t.latchO t.sclkO t.sdataO).stage ∧
      t.out = (s.drivePins t.latchO t.sclkO t.sdataO).out := by
  cases h with
  | reset => exact ⟨rfl, rfl⟩
  | command i _ _ _ _ _ he =>
    obtain ⟨-, -, -, -, hlatch, hsclk, -, hstage, hout, -, -⟩ := exec_frame he
    exact pins_of_unchanged hlatch hsclk hstage hout
  | quiet => exact pins_of_unchanged rfl rfl rfl rfl
  | drive _ _ u hu => exact hu.pins

end Sys2Proof.Machine

namespace Sys2Proof.Proofs
open Sys2Proof.Machine

/-- Settles O33: in every cycle the stages are those of a pin write, which shifts them on a rise of `sclk_o` alone. -/
theorem chainShiftsOnShiftClockRise : Obligations.ChainShiftsOnShiftClockRise := by
  unfold Obligations.ChainShiftsOnShiftClockRise
  intro s t h
  obtain ⟨hstage, -⟩ := (step_cases h).pins
  obtain ⟨hshift, hkeep, -, -⟩ := drivePins_chain s t.latchO t.sclkO t.sdataO
  refine ⟨fun hs ht => ?_, fun hno => hstage.trans (hkeep hno)⟩
  rw [hstage.trans (hshift hs ht)]
  exact ⟨shiftIn_zero _ _, fun m hm => shiftIn_succ _ _ (Fin.val_ne_zero_iff.mpr hm) m.isLt⟩

end Sys2Proof.Proofs
end

section
/-! The received bytes bit by bit: the order in which a byte is sent and the place where it is read undo each other
(42_driver.md R125; 60_exceptions.md R177, R178). -/

namespace Sys2Proof.Machine

/-- The stage of its register, counted from the lowest, in which the chain holds bit `b` of a byte; by 42_driver.md R125
and 60_exceptions.md R177 the same for sending and for receiving. -/
def bitPlace (cfg : Config) (b : Nat) : Nat :=
  match cfg.bitOrder with
  | .msbFirst => b
  | .lsbFirst => 7 - b

theorem bitPlace_msbFirst {cfg : Config} (h : cfg.bitOrder = .msbFirst) (b : Nat) : bitPlace cfg b = b := by
  simp [bitPlace, h]

theorem bitPlace_lsbFirst {cfg : Config} (h : cfg.bitOrder = .lsbFirst) (b : Nat) : bitPlace cfg b = 7 - b := by
  simp [bitPlace, h]

theorem bitPlace_lt (cfg : Config) {b : Nat} (hb : b < 8) : bitPlace cfg b < 8 := by
  cases h : cfg.bitOrder with
  | msbFirst => rwa [bitPlace_msbFirst h]
  | lsbFirst => rw [bitPlace_lsbFirst h]; omega

/-- Both bit orders are their own inverse. -/
theorem bitPlace_bitPlace (cfg : Config) {b : Nat} (hb : b < 8) : bitPlace cfg (bitPlace cfg b) = b := by
  cases h : cfg.bitOrder with
  | msbFirst => simp only [bitPlace_msbFirst h]
  | lsbFirst => simp only [bitPlace_lsbFirst h]; omega

theorem getLsbD_reverse_byte (x : Byte) {b : Nat} (hb : b < 8) : x.reverse.getLsbD b = x.getLsbD (7 - b) := by
  rw [BitVec.getLsbD_reverse, BitVec.getMsbD_eq_getLsbD, decide_eq_true hb, Bool.true_and]

theorem getLsbD_firstRx (cfg : Config) (out : FrameWord) {b : Nat} (hb : b < 8) :
    (firstRx cfg out).getLsbD b = out.getLsbD (8 + bitPlace cfg b) := by
  cases h : cfg.bitOrder with
  | msbFirst => simp [firstRx, h, bitPlace_msbFirst h, hb]
  | lsbFirst =>
    have hplace : 7 - b < 8 := by omega
    simp [firstRx, h, bitPlace_lsbFirst h, getLsbD_reverse_byte _ hb, hplace]

theorem getLsbD_secondRx (cfg : Config) (out : FrameWord) {b : Nat} (hb : b < 8) :
    (secondRx cfg out).getLsbD b = out.getLsbD (bitPlace cfg b) := by
  cases h : cfg.bitOrder with
  | msbFirst => simp [secondRx, h, bitPlace_msbFirst h, hb]
  | lsbFirst =>
    have hplace : 7 - b < 8 := by omega
    simp [secondRx, h, bitPlace_lsbFirst h, getLsbD_reverse_byte _ hb, hplace]

/-- The bits of the first byte are sent from its highest place down. -/
theorem sbit_of_lt (cfg : Config) (w : FrameWord) {k : Nat} (hk : k < 8) :
    sbit cfg w k = w.getLsbD (8 + bitPlace cfg (7 - k)) := by
  have hplace : 7 - k < 8 := by omega
  have hback : 7 - (7 - k) = k := by omega
  cases h : cfg.bitOrder with
  | msbFirst => simp [sbit, h, bitPlace_msbFirst h, hk, Nat.mod_eq_of_lt hk, hplace]
  | lsbFirst => simp [sbit, h, bitPlace_lsbFirst h, hk, Nat.mod_eq_of_lt hk, hback]

/-- The bits of the second byte follow in the same order. -/
theorem sbit_add_eight (cfg : Config) (w : FrameWord) {k : Nat} (hk : k < 8) :
    sbit cfg w (8 + k) = w.getLsbD (bitPlace cfg (7 - k)) := by
  have hplace : 7 - k < 8 := by omega
  have hback : 7 - (7 - k) = k := by omega
  cases h : cfg.bitOrder with
  | msbFirst => simp [sbit, h, bitPlace_msbFirst h, Nat.mod_eq_of_lt hk, hplace]
  | lsbFirst => simp [sbit, h, bitPlace_lsbFirst h, hk, Nat.mod_eq_of_lt hk, hback]

/-- A chain that holds a frame word has its first byte in the far register. -/
theorem holdsFrame_far {cfg : Config} {out w : FrameWord} (h : holdsFrame cfg out w) {p : Nat} (hp : p < 8) :
    out.getLsbD (8 + p) = w.getLsbD (8 + bitPlace cfg p) := by
  have hserial : 15 - (8 + p) = 7 - p := by omega
  have hback : 7 - (7 - p) = p := by omega
  rw [h ⟨8 + p, by omega⟩, hserial, sbit_of_lt cfg w (by omega), hback]

/-- A chain that holds a frame word has its second byte in the near register. -/
theorem holdsFrame_near {cfg : Config} {out w : FrameWord} (h : holdsFrame cfg out w) {p : Nat} (hp : p < 8) :
    out.getLsbD p = w.getLsbD (bitPlace cfg p) := by
  have hserial : 15 - p = 8 + (7 - p) := by omega
  have hback : 7 - (7 - p) = p := by omega
  rw [h ⟨p, by omega⟩, hserial, sbit_add_eight cfg w (by omega), hback]

theorem firstRx_of_holdsFrame {cfg : Config} {out w : FrameWord} (h : holdsFrame cfg out w) :
    firstRx cfg out = w.extractLsb' 8 8 := by
  refine BitVec.eq_of_getLsbD_eq fun b hb => ?_
  rw [getLsbD_firstRx cfg out hb, holdsFrame_far h (bitPlace_lt cfg hb), bitPlace_bitPlace cfg hb]
  simp [hb]

theorem secondRx_of_holdsFrame {cfg : Config} {out w : FrameWord} (h : holdsFrame cfg out w) :
    secondRx cfg out = w.extractLsb' 0 8 := by
  refine BitVec.eq_of_getLsbD_eq fun b hb => ?_
  rw [getLsbD_secondRx cfg out hb, holdsFrame_near h (bitPlace_lt cfg hb), bitPlace_bitPlace cfg hb]
  simp [hb]

/-! ### Bytes by their meaning, and lit segments -/

theorem rx_of_indexFirst {cfg : Config} (h : cfg.firstByte = .index) (out : FrameWord) :
    indexRx cfg out = firstRx cfg out ∧ segRx cfg out = secondRx cfg out := by
  simp [indexRx, segRx, h]

theorem rx_of_segmentFirst {cfg : Config} (h : cfg.firstByte = .segment) (out : FrameWord) :
    indexRx cfg out = secondRx cfg out ∧ segRx cfg out = firstRx cfg out := by
  simp [indexRx, segRx, h]

/-- Index bits from C on drive nothing. -/
theorem lit_of_le {cfg : Config} {i : Nat} (h : cfg.digitCount ≤ i) (out : FrameWord) (seg : Nat) :
    lit cfg out i seg = false := by
  simp [lit, Nat.not_lt.mpr h]

theorem lit_ca_iff {cfg : Config} (hpol : cfg.polarity = .ca) {i : Nat} (h : i < cfg.digitCount) (out : FrameWord)
    (seg : Nat) :
    lit cfg out i seg = true ↔ (indexRx cfg out).getLsbD i = true ∧ (segRx cfg out).getLsbD seg = false := by
  simp [lit, hpol, h]

theorem lit_cc_iff {cfg : Config} (hpol : cfg.polarity = .cc) {i : Nat} (h : i < cfg.digitCount) (out : FrameWord)
    (seg : Nat) :
    lit cfg out i seg = true ↔ (indexRx cfg out).getLsbD i = false ∧ (segRx cfg out).getLsbD seg = true := by
  simp [lit, hpol, h]

end Sys2Proof.Machine

namespace Sys2Proof.Proofs
open Sys2Proof.Machine

/-- Settles O50: each received bit is the chain's at the bit's place in its register; a frame word is sent so that its
bits reach those same places, and the place of a bit's place is the bit. -/
theorem receivedBytesAreTheSentBytes : Obligations.ReceivedBytesAreTheSentBytes := by
  unfold Obligations.ReceivedBytesAreTheSentBytes
  intro cfg w out
  refine ⟨fun b => ?_, fun h => rx_of_indexFirst h out, fun h => rx_of_segmentFirst h out,
    fun h => ⟨firstRx_of_holdsFrame h, secondRx_of_holdsFrame h⟩, fun i seg h => lit_of_le h out seg,
    fun i seg h => ⟨fun hpol => lit_ca_iff hpol h out seg, fun hpol => lit_cc_iff hpol h out seg⟩⟩
  rw [getLsbD_firstRx cfg out b.isLt, getLsbD_secondRx cfg out b.isLt]
  cases horder : cfg.bitOrder with
  | msbFirst =>
    rw [bitPlace_msbFirst horder]
    exact ⟨rfl, rfl⟩
  | lsbFirst =>
    have hfar : 8 + (7 - b.val) = 15 - b.val := by omega
    rw [bitPlace_lsbFirst horder, hfar]
    exact ⟨rfl, rfl⟩

end Sys2Proof.Proofs
end

section
/-! The encoder against the decoder, through what the field rules read from a word (30_encoding.md R61 to R69). -/

namespace Sys2Proof

theorem readsAs_wordOf_showFor {d : Nat} (h : d < 2 ^ 32) :
    ReadsAs (wordOf 0x05#8 0#8 (0#32 ++ BitVec.ofNat 32 d)) (.showFor d) := by
  have hhigh : (0#32 ++ BitVec.ofNat 32 d : BitVec 64).extractLsb' 32 32 = 0#32 := BitVec.extractLsb'_append_eq_left
  have hlow : (0#32 ++ BitVec.ofNat 32 d : BitVec 64).extractLsb' 0 32 = BitVec.ofNat 32 d :=
    BitVec.extractLsb'_append_eq_right
  have hread := ReadsAs.showFor (w := wordOf 0x05#8 0#8 (0#32 ++ BitVec.ofNat 32 d)) (by simp) (by simpa using hhigh)
  rwa [payField_wordOf, hlow, BitVec.toNat_ofNat, Nat.mod_eq_of_lt h] at hread

/-- A row's test of its must-be-zero bits rejects with that row's error and no other. -/
theorem guarded_eq_error_iff {c : Prop} [Decidable c] {i : Instr} {e e' : DecodeError} :
    (if c then Except.ok i else .error e) = .error e' ↔ ¬c ∧ e = e' := by
  split_ifs <;> simp [*]

/-- The field rules read a well-formed command from its own word. -/
theorem readsAs_encode {i : Instr} (h : i.wf = true) : ReadsAs (encode i) i := by
  cases i with
  | nop => exact .nop (opField_wordOf _ _ _) ⟨auxField_wordOf _ _ _, payField_wordOf _ _ _⟩
  | load pv pi chars => exact readsAs_wordOf_load pv (of_decide_eq_true h) chars
  | ptset idx => exact readsAs_wordOf_ptset (of_decide_eq_true h)
  | ptclr idx => exact readsAs_wordOf_ptclr (of_decide_eq_true h)
  | showOnce => exact .showOnce (opField_wordOf _ _ _) ⟨auxField_wordOf _ _ _, payField_wordOf _ _ _⟩
  | showFor d => exact readsAs_wordOf_showFor (of_decide_eq_true h)

/-- Every operand comes out of a field of its width. -/
theorem ReadsAs.wf {w : CmdWord} {i : Instr} (h : ReadsAs w i) : i.wf = true := by
  cases h with
  | nop | showOnce => rfl
  | load | ptset | ptclr | showFor => exact decide_eq_true (BitVec.isLt _)

/-- No bit of a word that reads as a command is dropped. -/
theorem ReadsAs.encode_eq {w : CmdWord} {i : Instr} (h : ReadsAs w i) : encode i = w := by
  rw [← wordOf_fields w]
  cases h with
  | nop hop hz | showOnce hop hz => rw [hop, hz.1, hz.2, encode]
  | load hop hz => rw [hop, encode, loadAux_of_fields _ hz, payOf_charsOf]
  | ptset hop hz | ptclr hop hz => rw [hop, hz, encode, BitVec.ofNat_toNat, BitVec.setWidth_eq]
  | showFor hop hz => rw [hop, hz.1, encode, duration_of_fields _ hz.2]

end Sys2Proof

namespace Sys2Proof.Machine

theorem wf_of_asmLoad {pt : Option Nat} {chars : Vector Byte 8} {i : Instr} (h : asmLoad pt chars = some i) :
    i.wf = true := by
  cases pt with
  | none =>
    cases h
    rfl
  | some n =>
    rw [asmLoad, Option.ite_none_right_eq_some] at h
    obtain ⟨hn, ⟨⟩⟩ := h
    exact decide_eq_true (Nat.lt_succ_of_le hn)

/-- The assembler checks the range of every operand (R69). -/
theorem AsmLine.wf_of_assemble {l : AsmLine} {i : Instr} (h : l.assemble = some i) : i.wf = true := by
  cases l with
  | nop | showOnce | blank =>
    cases h
    rfl
  | load s pt =>
    obtain ⟨-, h⟩ := Option.ite_none_right_eq_some.mp h
    exact wf_of_asmLoad h
  | loadRaw pay pt => exact wf_of_asmLoad h
  | ptset n | ptclr n | showFor n =>
    obtain ⟨hn, ⟨⟩⟩ := Option.ite_none_right_eq_some.mp h
    exact decide_eq_true (Nat.lt_of_le_of_lt hn (by decide))

end Sys2Proof.Machine

namespace Sys2Proof.Proofs
open Sys2Proof.Machine

/-- Settles O11: the field rules read a well-formed command from its word, and the decoder accepts what they read. -/
theorem decodeOfEncodeIsIdentity : Obligations.DecodeOfEncodeIsIdentity :=
  fun _ h => decode_eq_ok_iff.mpr (readsAs_encode h)

/-- Settles O12: what the field rules read fits the fields, and its word is made of those same fields. -/
theorem encodeOfDecodeIsIdentity : Obligations.EncodeOfDecodeIsIdentity := by
  unfold Obligations.EncodeOfDecodeIsIdentity
  intro w i h
  have hread := decode_eq_ok_iff.mp h
  exact ⟨hread.wf, hread.encode_eq⟩

/-- Settles O16: an assembled command is in range, so by O11 its word decodes to it. -/
theorem assembledLineDecodesToItsCommand : Obligations.AssembledLineDecodesToItsCommand := by
  unfold Obligations.AssembledLineDecodesToItsCommand
  intro l i h
  refine ⟨encode i, ?_, decodeOfEncodeIsIdentity i (AsmLine.wf_of_assemble h)⟩
  rw [AsmLine.word, h, Option.map_some]

/-- Settles O15: the value of OP picks the row, and the row's test of its must-be-zero bits is all that is left. -/
theorem reservedWordsByFamily : Obligations.ReservedWordsByFamily := by
  unfold Obligations.ReservedWordsByFamily
  intro w
  have hop (n : Nat) (hn : n < 8) : opField w = BitVec.ofNat 8 n ↔ (opField w).toNat = n := by
    rw [← BitVec.toNat_inj, BitVec.toNat_ofNat, Nat.mod_eq_of_lt (by omega)]
  simp only [decode, hop, Nat.reduceLT]
  obtain h | h | h | h | h | h | h : (opField w).toNat = 0 ∨ (opField w).toNat = 1 ∨ (opField w).toNat = 2 ∨
      (opField w).toNat = 3 ∨ (opField w).toNat = 4 ∨ (opField w).toNat = 5 ∨ 6 ≤ (opField w).toNat := by omega
  case inr.inr.inr.inr.inr.inr =>
    have hne (n : Nat) (hn : n < 6) : (opField w).toNat ≠ n := by omega
    simp [h, hne]
  all_goals simp [h, guarded_eq_error_iff, imp_iff_not_or]

/-- Settles O10: each word of the table by evaluation. -/
theorem sampleWordsDecode : Obligations.SampleWordsDecode := by
  unfold Obligations.SampleWordsDecode
  decide

end Sys2Proof.Proofs
end

section
/-! The invariant, part by part (10_state.md R27 to R34; 42_driver.md R131 to R133; 60_exceptions.md R174, R175). -/

namespace Sys2Proof.Machine

namespace DriveCase

theorem modeLegal {s u : State} (h : DriveCase s u) (hs : s.modeLegal) : u.modeLegal := by
  obtain ⟨hidle, hcheck⟩ := hs
  cases h with
  | dwellCheck hst _ _ honce =>
    have htimed : s.mode = .timed := by
      cases hm : s.mode with
      | none => exact absurd (hst.symm.trans (hidle.mp hm)) nofun
      | once => exact absurd hm honce
      | timed => rfl
    exact ⟨by simp [htimed], fun _ => htimed⟩
  | _ => simp_all [State.modeLegal]

theorem clrLegal {s u : State} (h : DriveCase s u) (hs : s.clrLegal) : u.clrLegal := by
  cases h <;> simp_all [State.clrLegal]

theorem positionLegal {s u : State} (h : DriveCase s u) (hs : s.positionLegal) : u.positionLegal := by
  have hC := s.cfg.digitCount_le
  obtain ⟨hdig, hidle, hlast⟩ := hs
  cases h with
  | checkPass => exact ⟨Nat.lt_of_succ_le s.cfg.digitCount_pos, nofun, nofun⟩
  | latchHiClear => exact ⟨Nat.lt_of_succ_le s.cfg.digitCount_pos, fun _ => ⟨rfl, rfl⟩, nofun⟩
  | dwellNext hst _ hmore =>
    have hnext : (s.dig + 1#3).toNat = s.dig.toNat + 1 := by bv_omega
    exact ⟨hnext.trans_lt hmore, nofun, nofun⟩
  | _ => simp_all [State.positionLegal]

theorem dwellLegal {s u : State} (h : DriveCase s u) (hs : s.dwellLegal) (hcfg : s.cfg.wf = true) : u.dwellLegal := by
  obtain ⟨-, -, hdw, -⟩ := s.cfg.wf_iff.mp hcfg
  cases h with
  | latchHiDigit => exact ⟨Nat.le_refl _, fun _ => hdw, fun h => absurd rfl h⟩
  | dwellOn hst hmore =>
    obtain ⟨hle, -, -⟩ := hs
    exact ⟨(Nat.sub_le _ _).trans hle, fun _ => Nat.le_sub_one_of_lt hmore, fun h => absurd hst h⟩
  | _ => simp_all [State.dwellLegal]

theorem pinsLegal {s u : State} (h : DriveCase s u) (hs : s.pinsLegal) : u.pinsLegal := by
  obtain ⟨hlow, hhigh, hsclk, hsdata⟩ := hs
  cases h with
  | shiftBMore hst hmore =>
    have hnext : s.bit + 1#4 ≠ 0#4 := by bv_omega
    simp_all [State.pinsLegal]
  | _ => simp_all [State.pinsLegal, beq_eq_decide]

/-- No case after LATCH_LO touches what the frame word is made of before the frame is out. -/
theorem frameLegal {s u : State} (h : DriveCase s u) (hs : s.frameLegal) : u.frameLegal := by
  have hword : u.cfg = s.cfg → u.fb = s.fb → u.clr = s.clr → u.dig = s.dig → u.nextWord = s.nextWord := by
    intro hcfg hfb hclr hdig
    simp only [State.nextWord, State.digitWord, State.fbAt, hcfg, hfb, hclr, hdig]
  cases h with
  | latchLo hst => exact fun _ => (hword rfl rfl rfl rfl).symm
  | shiftA hst => exact fun _ => (hs (.inl hst)).trans (hword rfl rfl rfl rfl).symm
  | shiftBLast hst | shiftBMore hst => exact fun _ => (hs (.inr (.inl hst))).trans (hword rfl rfl rfl rfl).symm
  | _ => simp_all [State.frameLegal]

/-- SHIFT_B puts the bit on the data pin into the chain (60_exceptions.md R174). -/
theorem getLsbD_stage_of_shiftB {s : State} (hst : s.st = .shiftB) (hs : s.chainLegal) (hpins : s.pinsLegal) :
    ∀ m < s.bit.toNat + 1,
      (s.drivePins s.latchO true s.sdataO).stage.getLsbD m = sbit s.cfg s.sreg (s.bit.toNat - m) := by
  obtain ⟨hsent, -, -⟩ := hs
  obtain ⟨-, -, hsclk, hsdata⟩ := hpins
  have hrise : s.sclkO = false := by rw [hsclk, hst]; rfl
  have hbits : s.bitsSent = s.bit.toNat := by simp [State.bitsSent, hst]
  obtain ⟨hshift, -, -, -⟩ := drivePins_chain s s.latchO true s.sdataO
  rw [hshift hrise rfl, hsdata hst]
  refine getLsbD_shiftIn_of_sent s.bit.isLt fun m hm => ?_
  rw [← hbits]
  exact hsent ⟨m, hm.trans s.bit.isLt⟩ (hbits.symm ▸ hm)

/-- LATCH_HI transfers the whole frame word to the outputs (60_exceptions.md R175). -/
theorem holdsFrame_out_of_latchHi {s : State} (hst : s.st = .latchHi) (hs : s.chainLegal) (hpins : s.pinsLegal)
    (hframe : s.frameLegal) : holdsFrame s.cfg (s.drivePins true false s.sdataO).out s.nextWord := by
  obtain ⟨hsent, -, -⟩ := hs
  have hbits : s.bitsSent = 16 := by simp [State.bitsSent, hst]
  obtain ⟨hlow, -, -, -⟩ := hpins
  obtain ⟨-, -, hlatch, -⟩ := drivePins_chain s true false s.sdataO
  rw [hlatch (hlow (.inr (.inr hst))) rfl, ← hframe (.inr (.inr hst))]
  rw [hbits] at hsent
  exact fun m => hsent m m.isLt

theorem chainLegal {s u : State} (h : DriveCase s u) (hs : s.chainLegal) (hpins : s.pinsLegal)
    (hframe : s.frameLegal) : u.chainLegal := by
  obtain ⟨hsent, hdwell, -⟩ := id hs
  cases h with
  | shiftA hst => exact ⟨by simpa [State.bitsSent, hst] using hsent, nofun, nofun⟩
  | shiftBLast hst hlast =>
    refine ⟨fun m _ => ?_, nofun, nofun⟩
    have hstage := getLsbD_stage_of_shiftB hst hs hpins m
    rw [hlast] at hstage
    exact hstage m.isLt
  | shiftBMore hst hmore =>
    have hbit : (s.bit + 1#4).toNat = s.bit.toNat + 1 := by bv_omega
    refine ⟨fun m hm => ?_, nofun, nofun⟩
    have hm : m.val < (s.bit + 1#4).toNat := hm
    have hgoal := getLsbD_stage_of_shiftB hst hs hpins m (hbit ▸ hm)
    simpa [State.bitsSent, hbit, -BitVec.toNat_add] using hgoal
  | latchHiClear hst hclr =>
    refine ⟨nofun, nofun, fun _ _ => ?_⟩
    have hout := holdsFrame_out_of_latchHi hst hs hpins hframe
    rw [State.nextWord, if_pos hclr] at hout
    exact eq_zero_of_holdsFrame_zero hout
  | latchHiDigit hst hclr =>
    refine ⟨nofun, fun _ => ?_, nofun⟩
    have hout := holdsFrame_out_of_latchHi hst hs hpins hframe
    rwa [State.nextWord, if_neg (by simp [hclr])] at hout
  | dwellOn hst => exact ⟨by simp [State.bitsSent, hst], fun _ => hdwell hst, by simp [hst]⟩
  | _ => exact ⟨nofun, nofun, nofun⟩

/-- Every cycle within a frame takes one off the cycles that the frame still takes. -/
theorem frameLeft_succ {s u : State} (h : DriveCase s u) (hcheck : s.st ≠ .check)
    (hcnt : s.st = .dwell → 1 < s.cnt) : u.frameLeft + 1 = s.frameLeft := by
  have hlt := s.bit.isLt
  cases h with
  | checkPass hst | checkClear hst => exact absurd hst hcheck
  | dwellNext hst h | dwellClear hst h | dwellCheck hst h => exact absurd (hcnt hst) (Nat.not_lt.mpr h)
  | latchHiClear hst h | latchHiDigit hst h => simp [State.frameLeft, hst, h, Nat.add_comm]
  | dwellOn hst h => simp only [State.frameLeft, hst]; omega
  | shiftBMore hst h =>
    have hbit : (s.bit + 1#4).toNat = s.bit.toNat + 1 := by bv_omega
    cases hc : s.clr <;> simp only [State.frameLeft, State.drivePins_clr, State.drivePins_cfg, hst, hc, hbit] <;> omega
  | latchLo hst => cases hc : s.clr <;> simp [State.frameLeft, hst, hc]; omega
  | shiftA hst =>
    cases hc : s.clr <;>
      simp only [State.frameLeft, State.drivePins_clr, State.drivePins_cfg, State.drivePins_bit, hst, hc] <;> omega
  | shiftBLast hst h => cases hc : s.clr <;> simp [State.frameLeft, hst, h, hc]; omega

end DriveCase

/-- Within a frame the time spent is taken off the time left, whether of a pass or of the clear frame. -/
theorem timeLegal_of_frameLeft_succ {s u : State} (hs : s.timeLegal) (hm : s.mode = .timed) (hst : s.st ≠ .check)
    (hust : u.st ≠ .check) (hleft : u.frameLeft + 1 = s.frameLeft) (hcfg : u.cfg = s.cfg) (hdig : u.dig = s.dig)
    (hclr : u.clr = s.clr) (hdur : u.dur = s.dur) (hel : u.elapsed = s.elapsed + 1) : u.timeLegal := by
  obtain ⟨hbound, -, -, hclear, hpass⟩ := hs
  have hclear := hclear hm hst
  have hpass := hpass hm hst
  simp only [State.timeLegal, State.passLeft, hcfg, hdig, hclr, hdur, hel] at *
  refine ⟨hbound, ?_, fun h => absurd h hust, fun _ _ hc => ?_, fun _ _ hc => ?_⟩
  · cases hc : s.clr with
    | true => have := hclear hc; omega
    | false => have := hpass hc; omega
  · have := hclear hc; omega
  · have := hpass hc; omega

/-- A pass period is the CHECK, the first digit's frame and those of the digits after it (R131). -/
theorem passPeriod_eq (cfg : Config) :
    cfg.passPeriod = 1 + (cfg.frameCycles + (cfg.digitCount - 1) * cfg.frameCycles) := by
  have hC : cfg.digitCount = cfg.digitCount - 1 + 1 := (Nat.sub_add_cancel cfg.digitCount_pos).symm
  rw [Config.passPeriod, hC, Nat.succ_mul, Nat.add_comm (_ * _), Nat.add_sub_cancel]

/-- In LATCH_LO of a digit the whole frame is still to come, and those of the digits after it. -/
theorem State.passLeft_of_latchLo {s : State} (hst : s.st = .latchLo) (hclr : s.clr = false) :
    s.passLeft = s.cfg.frameCycles + (s.cfg.digitCount - 1 - s.dig.toNat) * s.cfg.frameCycles := by
  simp [State.passLeft, State.frameLeft, Config.frameCycles, hst, hclr]

theorem State.passLeft_of_dwell {s : State} (hst : s.st = .dwell) :
    s.passLeft = s.cnt + (s.cfg.digitCount - 1 - s.dig.toNat) * s.cfg.frameCycles := by
  simp [State.passLeft, State.frameLeft, hst]

namespace DriveCase

/-- A busy cycle of a timed repeat, counted in `elapsed` (R126). -/
theorem timeLegal_of_timed {s u : State} (h : DriveCase s u) (hs : s.timeLegal) (hm : s.mode = .timed)
    (hclr : s.clrLegal) (hdwell : s.dwellLegal) : State.timeLegal { u with elapsed := s.elapsed + 1 } := by
  have hleft := h.frameLeft_succ
  have hC := s.cfg.digitCount_le
  obtain ⟨hbound, -, hcheck, hclear, hpass⟩ := id hs
  obtain ⟨-, hcnt, -⟩ := hdwell
  cases h with
  | checkPass hst htime =>
    rw [passPeriod_eq] at htime
    refine ⟨hbound, (by omega : s.elapsed + 1 ≤ s.dur + 35), nofun, nofun, fun _ _ _ => ?_⟩
    rw [State.passLeft_of_latchLo rfl rfl]
    exact (by omega : s.elapsed + 1 + (s.cfg.frameCycles + (s.cfg.digitCount - 1) * s.cfg.frameCycles) < s.dur)
  | checkClear hst =>
    have := hcheck hst
    exact ⟨hbound, (by omega : s.elapsed + 1 ≤ s.dur + 35), nofun,
      fun _ _ _ => (by omega : s.elapsed + 1 + 34 ≤ s.dur + 35), nofun⟩
  | latchLo hst | shiftA hst | shiftBLast hst | shiftBMore hst | latchHiDigit hst =>
    exact timeLegal_of_frameLeft_succ hs hm (by simp [hst]) nofun (hleft (by simp [hst]) (by simp [hst])) rfl rfl rfl
      rfl rfl
  | dwellOn hst hmore =>
    exact timeLegal_of_frameLeft_succ hs hm (by simp [hst]) (by simp [hst]) (hleft (by simp [hst]) fun _ => hmore) rfl
      rfl rfl rfl rfl
  | latchHiClear hst hc =>
    have hend := hclear hm (by simp [hst]) hc
    rw [← hleft (by simp [hst]) (by simp [hst])] at hend
    exact ⟨hbound, (by omega : s.elapsed + 1 ≤ s.dur + 35), nofun, nofun, nofun⟩
  | dwellNext hst hlast hdig =>
    have hc := hclr (.inr (.inr hst))
    have hcnt := hcnt hst
    have hrest := hpass hm (by simp [hst]) hc
    have hnext : (s.dig + 1#3).toNat = s.dig.toNat + 1 := by bv_omega
    have hdigits : s.cfg.digitCount - 1 - s.dig.toNat = s.cfg.digitCount - 1 - (s.dig.toNat + 1) + 1 := by omega
    rw [State.passLeft_of_dwell hst, hdigits, Nat.succ_mul] at hrest
    refine ⟨hbound, (by omega : s.elapsed + 1 ≤ s.dur + 35), nofun, fun _ _ h => absurd (hc.symm.trans h) nofun,
      fun _ _ _ => ?_⟩
    rw [State.passLeft_of_latchLo]
    · simp only [hnext]
      omega
    · rfl
    · exact hc
  | dwellClear hst _ _ honce => exact absurd (honce.symm.trans hm) nofun
  | dwellCheck hst =>
    have hcnt := hcnt hst
    have hrest := hpass hm (by simp [hst]) (hclr (.inr (.inr hst)))
    rw [State.passLeft_of_dwell hst] at hrest
    exact ⟨hbound, (by omega : s.elapsed + 1 ≤ s.dur + 35), fun _ => .inr (by omega : s.elapsed + 1 < s.dur),
      fun _ h => absurd rfl h, fun _ h => absurd rfl h⟩

/-- The driver never turns another mode into that of a timed repeat. -/
theorem mode_eq_timed {s u : State} (h : DriveCase s u) (hu : u.mode = .timed) : s.mode = .timed := by
  cases h with
  | latchHiClear => cases hu
  | _ => exact hu

theorem timeLegal {s u : State} (h : DriveCase s u) (hs : s.timeLegal) (hmode : s.modeLegal) (hclr : s.clrLegal)
    (hdwell : s.dwellLegal) : State.timeLegal { u with elapsed := s.nextElapsed } := by
  by_cases hm : s.mode = .timed
  · rw [State.nextElapsed, if_pos hm]
    exact h.timeLegal_of_timed hs hm hclr hdwell
  · have hum : u.mode ≠ .timed := mt h.mode_eq_timed hm
    obtain ⟨-, hcheck⟩ := h.modeLegal hmode
    obtain ⟨hbound, hel, -⟩ := hs
    obtain ⟨-, -, -, hdur, -, -⟩ := h.frame
    rw [State.nextElapsed, if_neg hm]
    exact ⟨hdur ▸ hbound, hdur ▸ hel, fun hust => absurd (hcheck hust) hum, fun h => absurd h hum,
      fun h => absurd h hum⟩

/-- A driver step keeps the invariant. -/
theorem legal {s u : State} (h : DriveCase s u) (hs : s.Legal) : State.Legal { u with elapsed := s.nextElapsed } := by
  obtain ⟨hcfg, hmode, hclr, hpos, hdwell, hpins, hframe, hchain, htime⟩ := hs
  obtain ⟨hucfg, -⟩ := h.frame
  exact ⟨hucfg ▸ hcfg, h.modeLegal hmode, h.clrLegal hclr, h.positionLegal hpos, h.dwellLegal hdwell hcfg,
    h.pinsLegal hpins, h.frameLegal hframe, h.chainLegal hchain hpins hframe, h.timeLegal htime hmode hclr hdwell⟩

end DriveCase

theorem legal_applyReset {s : State} (hcfg : s.cfg.wf = true) : s.applyReset.Legal := by
  have hmode : s.applyReset.modeLegal := ⟨by simp, by simp⟩
  have hpos : s.applyReset.positionLegal :=
    ⟨by simpa using Nat.lt_of_succ_le s.cfg.digitCount_pos, by simp, by simp⟩
  have hdwell : s.applyReset.dwellLegal := ⟨by simp, by simp, by simp⟩
  have hpins : s.applyReset.pinsLegal := ⟨by simp, by simp, rfl, by simp⟩
  have hchain : s.applyReset.chainLegal := ⟨by simp [State.bitsSent], by simp, by simp⟩
  have htime : s.applyReset.timeLegal := ⟨by simp, by simp, by simp, by simp, by simp⟩
  exact ⟨hcfg, hmode, by simp [State.clrLegal], hpos, hdwell, hpins, by simp [State.frameLegal], hchain, htime⟩

/-- Construction is power-up and one reset cycle (70_reset_and_hazards.md R190). -/
theorem resetWith_eq_applyReset (cfg : Config) (inputs : List PortInput) :
    State.resetWith cfg inputs = State.applyReset { State.resetWith cfg inputs with draw := 0 } := rfl

/-- The exact product fits 64 bits (42_driver.md R121). -/
theorem scaledDuration_lt {cfg : Config} {d : Nat} (hd : (Instr.showFor d).wf = true) (hcfg : cfg.wf = true) :
    scaledDuration cfg d < 2 ^ 64 := by
  obtain ⟨-, hU, -⟩ := cfg.wf_iff.mp hcfg
  have hd : d < 2 ^ 32 := of_decide_eq_true hd
  have hprod : d * cfg.cyclesPerUnit < 2 ^ 32 * 2 ^ 32 := Nat.mul_lt_mul'' hd hU
  exact hprod.trans_eq (by decide)

/-- A well-formed command in IDLE keeps the invariant. -/
theorem legal_of_exec {i : Instr} {s t : State} (hs : s.Legal) (hi : s.st = .idle) (hwf : i.wf = true)
    (h : exec i s = .next t) : t.Legal := by
  obtain ⟨hcfg, hmode, hclr, hpos, hdwell, hpins, hframe, hchain, htime⟩ := hs
  obtain ⟨hsent, -, hdark⟩ := hchain
  obtain ⟨hcntle, -, hcnt⟩ := id hdwell
  obtain ⟨-, -, hsclk, -⟩ := id hpins
  have hC := Nat.lt_of_succ_le s.cfg.digitCount_pos
  have hcnt : s.cnt = 0 := hcnt (by simp [hi])
  have hsclk : s.sclkO = false := by rw [hsclk, hi]; rfl
  obtain ⟨fb, rfl, -⟩ | ⟨rfl, rfl⟩ | ⟨d, rfl, rfl⟩ := exec_cases h
  · exact ⟨hcfg, hmode, hclr, hpos, hdwell, hpins, by simp [State.frameLegal, hi],
      ⟨hsent, by simp [hi], hdark⟩, htime⟩
  · obtain ⟨hbound, hel, -⟩ := htime
    exact ⟨hcfg, ⟨by simp, nofun⟩, fun _ => rfl, ⟨hC, nofun, nofun⟩, ⟨hcntle, nofun, fun _ => hcnt⟩,
      ⟨nofun, nofun, hsclk, nofun⟩, nofun, ⟨nofun, nofun, nofun⟩, ⟨hbound, hel, nofun, nofun, nofun⟩⟩
  · exact ⟨hcfg, ⟨by simp, fun _ => rfl⟩, fun _ => rfl, ⟨hC, nofun, nofun⟩, ⟨hcntle, nofun, fun _ => hcnt⟩,
      ⟨nofun, nofun, hsclk, nofun⟩, nofun, ⟨nofun, nofun, nofun⟩,
      ⟨scaledDuration_lt hwf hcfg, Nat.zero_le _, fun _ => .inl rfl, fun _ h => absurd rfl h, fun _ h => absurd rfl h⟩⟩

/-- The ports are no part of the invariant. -/
theorem State.Legal.nextCycle {s : State} (h : s.Legal) : s.nextCycle.Legal := h

theorem StepCase.legal {s t : State} (h : StepCase s t) (hs : s.Legal) : t.Legal := by
  have hnext := hs.nextCycle
  cases h with
  | reset => exact legal_applyReset hnext.1
  | command i _ hr hi hv hd he => exact legal_of_exec hnext hi (decode_eq_ok_iff.mp hd).wf he
  | quiet => exact hnext
  | drive hr hb u hu => exact hu.legal hnext

end Sys2Proof.Machine

namespace Sys2Proof.Proofs
open Sys2Proof.Machine

/-- Settles O36: each of the four kinds of cycle keeps every part of the invariant; the driver's cases keep them part by
part, and a decoded SHOWFOR is well formed, so its duration fits. -/
theorem stepKeepsLegal : Obligations.StepKeepsLegal :=
  fun _ _ hs h => (step_cases h).legal hs

/-- Settles O37: construction ends with a reset cycle, and a reset leaves a legal state. -/
theorem constructedStateIsLegal : Obligations.ConstructedStateIsLegal := by
  unfold Obligations.ConstructedStateIsLegal
  intro cfg inputs hcfg
  rw [resetWith_eq_applyReset]
  exact legal_applyReset hcfg

/-- Settles O9: the accept cycle by definition; both factors are below 2^32. -/
theorem showForStartsTimedRepeat : Obligations.ShowForStartsTimedRepeat :=
  fun _ _ => ⟨rfl, scaledDuration_lt⟩

end Sys2Proof.Proofs
end

section
/-! What a digit's frame lights (60_exceptions.md R177 to R179). -/

namespace Sys2Proof.Machine

/-- Each byte of a frame word is received as what it was sent as, whichever is sent first. -/
theorem rx_of_holdsFrame {cfg : Config} {out : FrameWord} {index pattern : Byte}
    (h : holdsFrame cfg out (frameWord cfg index pattern)) : indexRx cfg out = index ∧ segRx cfg out = pattern := by
  have hfirst := firstRx_of_holdsFrame h
  have hsecond := secondRx_of_holdsFrame h
  cases horder : cfg.firstByte with
  | index =>
    obtain ⟨hindex, hseg⟩ := rx_of_indexFirst horder out
    rw [frameWord, horder] at hfirst hsecond
    exact ⟨hindex.trans (hfirst.trans BitVec.extractLsb'_append_eq_left),
      hseg.trans (hsecond.trans BitVec.extractLsb'_append_eq_right)⟩
  | segment =>
    obtain ⟨hindex, hseg⟩ := rx_of_segmentFirst horder out
    rw [frameWord, horder] at hfirst hsecond
    exact ⟨hindex.trans (hsecond.trans BitVec.extractLsb'_append_eq_right),
      hseg.trans (hfirst.trans BitVec.extractLsb'_append_eq_left)⟩

/-- The index byte has its own digit's bit at the driving level and every other bit at the other level (42_driver.md
R122). -/
theorem getLsbD_indexByte (cfg : Config) (i : Nat) {j : Nat} (hj : j < 8) :
    (indexByte cfg i).getLsbD j = match cfg.polarity with | .ca => decide (j = i) | .cc => !decide (j = i) := by
  have hbit : (1#8 <<< i).getLsbD j = decide (j = i) := by
    rw [BitVec.getLsbD_shiftLeft, BitVec.getLsbD_one, Bool.eq_iff_iff]
    simp
    omega
  cases hpol : cfg.polarity with
  | ca => simp [indexByte, hpol, hbit]
  | cc => simp only [indexByte, hpol, BitVec.getLsbD_not, hbit, hj, decide_true, Bool.true_and]

theorem lit_of_holdsFrame {cfg : Config} {out : FrameWord} {i j seg : Nat} {pattern : Byte} (hj : j < cfg.digitCount)
    (hseg : seg < 8) (h : holdsFrame cfg out (frameWord cfg (indexByte cfg i) pattern)) :
    lit cfg out j seg = (decide (j = i) && (pattern ^^^ cfg.blank).getLsbD seg) := by
  obtain ⟨hrxIndex, hrxSeg⟩ := rx_of_holdsFrame h
  rw [← Config.wire_eq_xor_blank]
  have hindex := getLsbD_indexByte cfg i (hj.trans_le cfg.digitCount_le)
  cases hpol : cfg.polarity with
  | ca => simp [lit, hj, hpol, hrxIndex, hrxSeg, hindex, hseg]
  | cc => simp [lit, hj, hpol, hrxIndex, hrxSeg, hindex]

end Sys2Proof.Machine

namespace Sys2Proof.Proofs
open Sys2Proof.Machine

/-- Settles O51: the index byte drives digit `i` alone, and the segment byte is the logical pattern under polarity. -/
theorem digitFrameLightsItsDigitAlone : Obligations.DigitFrameLightsItsDigitAlone :=
  fun _ _ _ _ _ seg _ hj h => lit_of_holdsFrame hj seg.isLt h

/-- Settles O52: both received bytes are zero, and under either polarity one of them keeps every segment off. -/
theorem clearFrameLightsNothing : Obligations.ClearFrameLightsNothing :=
  fun _ => State.dark_of_out_eq_zero

/-- Settles O53: in a legal DWELL the outputs hold the frame of the current digit. -/
theorem dwellShowsTheCurrentDigit : Obligations.DwellShowsTheCurrentDigit := by
  unfold Obligations.DwellShowsTheCurrentDigit
  intro s hs hst j seg hj
  obtain ⟨-, -, -, -, -, -, -, ⟨-, hframe, -⟩, -⟩ := hs
  exact lit_of_holdsFrame hj seg.isLt (hframe hst)

end Sys2Proof.Proofs
end

section
/-! A frame on the pins and on the chain's outputs, cycle by cycle, and how long the outputs keep it (42_driver.md R131,
R133; 60_exceptions.md R174, R175; 70_reset_and_hazards.md R194). -/

namespace Sys2Proof.Machine

/-- The driver is deterministic. -/
theorem DriverRun.unique {n : Nat} {s t u : State} (h : DriverRun n s t) (h' : DriverRun n s u) : t = u := by
  induction h with
  | refl => cases h'; rfl
  | step hv _ ih =>
    cases h' with
    | step hv' h' =>
      obtain rfl := hv.driveCase_eq.symm.trans hv'.driveCase_eq
      exact ih h'

/-- `SentBits` with the shift clock's level and the outputs, which a frame leaves alone until it is latched. -/
structure FrameSent (f : State) (k : Nat) (s : State) : Prop extends SentBits f k s where
  sclkO : s.sclkO = decide (0 < k)
  out : s.out = f.out

/-- SHIFT_B of bit `k`: the bit is on the data pin, both clocks are low. -/
structure BitOnPin (f : State) (k : Nat) (s : State) : Prop where
  st : s.st = .shiftB
  latchO : s.latchO = false
  sclkO : s.sclkO = false
  sdataO : s.sdataO = sbit f.cfg f.nextWord k
  out : s.out = f.out

theorem exists_frameSent_zero {f : State} (hst : f.st = .latchLo) : ∃ t, DriverRun 1 f t ∧ FrameSent f 0 t := by
  obtain ⟨t, ht, hsent⟩ := exists_sentBits_zero hst
  obtain rfl := ht.unique (.single (.latchLo hst))
  exact ⟨_, ht, { hsent with sclkO := rfl, out := by simp }⟩

theorem FrameSent.exists_bitOnPin {f s : State} {k : Nat} (h : FrameSent f k s) (hk : k < 16) :
    ∃ t, DriverRun 1 s t ∧ BitOnPin f k t := by
  refine ⟨_, .single (.shiftA (h.st.trans (if_pos hk))),
    { st := rfl, latchO := h.latchO, sclkO := rfl, sdataO := ?_, out := by simp [h.out] }⟩
  simp [h.cfg, h.sreg, h.bit hk]

theorem FrameSent.succ {f s : State} {k : Nat} (h : FrameSent f k s) (hk : k < 16) :
    ∃ t, DriverRun 2 s t ∧ FrameSent f (k + 1) t := by
  obtain ⟨t, ht, hsent⟩ := h.toSentBits.succ hk
  obtain rfl := ht.unique (.step (.shiftA (h.st.trans (if_pos hk))) (.shiftB rfl))
  exact ⟨_, ht, { hsent with sclkO := by simp, out := by simp [h.out] }⟩

theorem exists_frameSent {f : State} (hst : f.st = .latchLo) {k : Nat} (hk : k ≤ 16) :
    ∃ t, DriverRun (1 + 2 * k) f t ∧ FrameSent f k t := by
  induction k with
  | zero => exact exists_frameSent_zero hst
  | succ k ih =>
    obtain ⟨s, hs, hsent⟩ := ih (Nat.le_of_succ_le hk)
    obtain ⟨t, ht, hsent'⟩ := hsent.succ hk
    exact ⟨t, hs.trans ht, hsent'⟩

/-- The pins and the outputs `n` cycles after LATCH_LO, until the frame is latched (R131, R133). -/
structure FramePins (f : State) (n : Nat) (s : State) : Prop where
  latchO : s.latchO = false
  sclkO : s.sclkO = decide (3 ≤ n ∧ n % 2 = 1)
  sdataO : 2 ≤ n → s.sdataO = sbit f.cfg f.nextWord ((n - 2) / 2)
  out : s.out = f.out

/-- Odd cycles have sent their bits, even ones are those of SHIFT_B. -/
theorem exists_framePins {f : State} (hst : f.st = .latchLo) {n : Nat} (h1 : 1 ≤ n) (h33 : n ≤ 33) :
    ∃ t, DriverRun n f t ∧ FramePins f n t := by
  obtain ⟨s, hs, hsent⟩ := exists_frameSent hst (k := (n - 1) / 2) (by omega)
  rcases Nat.mod_two_eq_zero_or_one n with heven | hodd
  · obtain ⟨t, ht, hpin⟩ := hsent.exists_bitOnPin (by omega)
    have hbit : (n - 1) / 2 = (n - 2) / 2 := by omega
    refine ⟨t, (hs.trans ht).of_length_eq (by omega), ⟨hpin.latchO, ?_, fun _ => hbit ▸ hpin.sdataO, hpin.out⟩⟩
    simp [hpin.sclkO, heven]
  · have hbit (h : 2 ≤ n) : (n - 1) / 2 - 1 = (n - 2) / 2 := by omega
    have hclock : 0 < (n - 1) / 2 ↔ 3 ≤ n ∧ n % 2 = 1 := by omega
    refine ⟨s, hs.of_length_eq (by omega), ⟨hsent.latchO, ?_, fun h => hbit h ▸ hsent.sdataO (by omega), hsent.out⟩⟩
    rw [hsent.sclkO, decide_eq_decide.mpr hclock]

/-- A frame when it is latched: 34 cycles after LATCH_LO (R131; 60_exceptions.md R175). -/
structure FrameLatched (f s : State) : Prop where
  st : s.st = if f.clr then .idle else .dwell
  stage : holdsFrame f.cfg s.stage f.nextWord
  out : s.out = s.stage
  latchO : s.latchO = true
  sclkO : s.sclkO = false
  sdataO : s.sdataO = sbit f.cfg f.nextWord 15

theorem exists_frameLatched {f : State} (hst : f.st = .latchLo) : ∃ t, DriverRun 34 f t ∧ FrameLatched f t := by
  obtain ⟨s, hs, hsent⟩ := exists_frameSent hst (Nat.le_refl 16)
  have hsdata := hsent.sdataO (by decide)
  cases hclr : f.clr with
  | true =>
    exact ⟨_, hs.trans (.single (.latchHiClear hsent.st (hsent.clr.trans hclr))),
      { st := by simp [hclr], stage := by simpa using hsent.holdsFrame, out := by simp [hsent.latchO], latchO := rfl
        sclkO := rfl, sdataO := hsdata }⟩
  | false =>
    exact ⟨_, hs.trans (.single (.latchHiDigit hsent.st (hsent.clr.trans hclr))),
      { st := by simp [hclr], stage := by simpa using hsent.holdsFrame, out := by simp [hsent.latchO], latchO := rfl
        sclkO := rfl, sdataO := hsdata }⟩

/-- The driver runs on from `s` for `n` cycles at least, and the outputs stay as they are for so long. -/
def State.keepsOutFor (s : State) (n : Nat) : Prop := ∀ k ≤ n, ∃ t, DriverRun k s t ∧ t.out = s.out

theorem State.keepsOutFor_zero (s : State) : s.keepsOutFor 0 := by
  rintro k hk
  obtain rfl := Nat.le_zero.mp hk
  exact ⟨s, .refl s, rfl⟩

/-- A cycle that leaves the outputs alone comes before a time in which they stay. -/
theorem DriveCase.keepsOutFor_succ {s u : State} {n : Nat} (hu : DriveCase s.nextCycle u) (hout : u.out = s.out)
    (h : State.keepsOutFor { u with elapsed := s.nextElapsed } n) : s.keepsOutFor (n + 1) := by
  intro k hk
  cases k with
  | zero => exact ⟨s, .refl s, rfl⟩
  | succ k =>
    obtain ⟨t, ht, htout⟩ := h k (Nat.le_of_succ_le_succ hk)
    exact ⟨t, .step hu ht, htout.trans hout⟩

/-- No frame reaches the outputs before it is latched. -/
theorem keepsOutFor_of_latchLo {s : State} (hst : s.st = .latchLo) : s.keepsOutFor 33 := by
  intro k hk
  rcases Nat.eq_zero_or_pos k with rfl | hpos
  · exact ⟨s, .refl s, rfl⟩
  · obtain ⟨t, ht, hpins⟩ := exists_framePins hst hpos hk
    exact ⟨t, ht, hpins.out⟩

theorem keepsOutFor_of_check {s : State} (hst : s.st = .check) : s.keepsOutFor 34 := by
  rcases Nat.lt_or_ge (s.elapsed + s.cfg.passPeriod) s.dur with h | h
  · exact DriveCase.keepsOutFor_succ (.checkPass hst h) rfl (keepsOutFor_of_latchLo rfl)
  · exact DriveCase.keepsOutFor_succ (.checkClear hst h) rfl (keepsOutFor_of_latchLo rfl)

theorem State.keepsOutFor.mono {s : State} {n m : Nat} (h : s.keepsOutFor n) (hm : m ≤ n) : s.keepsOutFor m :=
  fun k hk => h k (hk.trans hm)

theorem State.keepsOutFor.trans {s t : State} {n m : Nat} (h : s.keepsOutFor n) (hr : DriverRun n s t)
    (h' : t.keepsOutFor m) : s.keepsOutFor (n + m) := by
  obtain ⟨t', ht', htout⟩ := h n (Nat.le_refl n)
  obtain rfl := hr.unique ht'
  intro k hk
  rcases Nat.le_total k n with hle | hge
  · exact h k hle
  · obtain ⟨j, rfl⟩ := Nat.exists_eq_add_of_le hge
    obtain ⟨u, hu, huout⟩ := h' j (Nat.le_of_add_le_add_left hk)
    exact ⟨u, hr.trans hu, huout.trans htout⟩

theorem keepsOutFor_of_dwell {c : Nat} {s : State} (hst : s.st = .dwell) (hcnt : s.cnt = c + 1) : s.keepsOutFor c := by
  induction c generalizing s with
  | zero => exact s.keepsOutFor_zero
  | succ c ih =>
    have hmore : 1 < s.nextCycle.cnt := by rw [State.nextCycle_cnt, hcnt]; omega
    have hdown : s.cnt - 1 = c + 1 := by rw [hcnt]; rfl
    exact DriveCase.keepsOutFor_succ (.dwellOn hst hmore) rfl (ih hst hdown)

/-- With the last digit of a pass of a timed repeat the next CHECK takes one cycle more (R128). -/
theorem keepsOutFor_of_lastDwell_of_timed {s : State} (hst : s.st = .dwell) (hcnt : s.cnt = 1)
    (hdig : s.cfg.digitCount ≤ s.dig.toNat + 1) (hm : s.mode ≠ .once) : s.keepsOutFor 35 :=
  DriveCase.keepsOutFor_succ (.dwellCheck hst hcnt.le hdig hm) rfl (keepsOutFor_of_check rfl)

theorem keepsOutFor_of_lastDwell {s : State} (hst : s.st = .dwell) (hcnt : s.cnt = 1) : s.keepsOutFor 34 := by
  rcases Nat.lt_or_ge (s.dig.toNat + 1) s.cfg.digitCount with hdig | hdig
  · exact DriveCase.keepsOutFor_succ (.dwellNext hst hcnt.le hdig) rfl (keepsOutFor_of_latchLo rfl)
  · by_cases hm : s.mode = .once
    · exact DriveCase.keepsOutFor_succ (.dwellClear hst hcnt.le hdig hm) rfl (keepsOutFor_of_latchLo rfl)
    · exact (keepsOutFor_of_lastDwell_of_timed hst hcnt hdig hm).mono (by decide)

/-- A digit stays through its dwell and the next frame up to its latch. -/
theorem keepsOutFor_of_firstDwell {s : State} (hst : s.st = .dwell) (hcnt : s.cnt = s.cfg.dwellCycles)
    (hdw : 1 ≤ s.cfg.dwellCycles) : s.keepsOutFor (33 + s.cfg.dwellCycles) := by
  obtain ⟨c, hc⟩ : ∃ c, s.cfg.dwellCycles = c + 1 := Nat.exists_eq_add_of_le' hdw
  obtain ⟨t, ht, htst, htcnt, -, -⟩ := exists_lastDwell hst (hcnt.trans hc)
  have hkeep := (keepsOutFor_of_dwell hst (hcnt.trans hc)).trans ht (keepsOutFor_of_lastDwell htst htcnt)
  exact hkeep.mono (by omega)

theorem keepsOutFor_of_firstDwell_of_timed {s : State} (hst : s.st = .dwell) (hcnt : s.cnt = s.cfg.dwellCycles)
    (hdw : 1 ≤ s.cfg.dwellCycles) (hdig : s.cfg.digitCount ≤ s.dig.toNat + 1) (hm : s.mode = .timed) :
    s.keepsOutFor (34 + s.cfg.dwellCycles) := by
  obtain ⟨c, hc⟩ : ∃ c, s.cfg.dwellCycles = c + 1 := Nat.exists_eq_add_of_le' hdw
  obtain ⟨t, ht, htst, htcnt, htdig, -⟩ := exists_lastDwell hst (hcnt.trans hc)
  have htm : t.mode ≠ .once := by simp [ht.mode_of_busy (by simp [htst]), hm]
  have hlast := keepsOutFor_of_lastDwell_of_timed htst htcnt (by rwa [ht.cfg_eq, htdig]) htm
  have hkeep := (keepsOutFor_of_dwell hst (hcnt.trans hc)).trans ht hlast
  exact hkeep.mono (by omega)

/-- What holds of the driver's run holds of the block, without a reset. -/
theorem State.keepsOutFor.exists_run {s : State} {n k : Nat} (h : s.keepsOutFor n) (hr : s.noResetFor n) (hk : k ≤ n) :
    ∃ t, run k s = .next t ∧ t.out = s.out := by
  obtain ⟨t, ht, hout⟩ := h k hk
  exact ⟨t, ht.run_eq (hr.mono hk), hout⟩

end Sys2Proof.Machine

namespace Sys2Proof.Proofs
open Sys2Proof.Machine

/-- Settles O38: bit by bit, by induction on the number of bits sent, the frame word reaches the stages, and LATCH_HI
transfers them to the outputs. -/
theorem frameReachesChainOutputs : Obligations.FrameReachesChainOutputs := by
  unfold Obligations.FrameReachesChainOutputs
  intro s hst hr
  obtain ⟨t, ht, hlatched⟩ := exists_frameLatched hst
  obtain ⟨-, hfb, -⟩ := ht.frame
  exact ⟨t, ht.run_eq hr, hlatched.stage, hlatched.out ▸ hlatched.stage, hlatched.latchO, hlatched.sclkO, hfb,
    hlatched.st⟩

/-- Settles O39: the pins in odd cycles are those after a bit was sent, in even ones those of SHIFT_B. -/
theorem framePinsFollowTheTimingTable : Obligations.FramePinsFollowTheTimingTable := by
  unfold Obligations.FramePinsFollowTheTimingTable
  intro s hst hr
  refine ⟨fun n h1 h33 => ?_, ?_⟩
  · obtain ⟨t, ht, hpins⟩ := exists_framePins hst h1 h33
    exact ⟨t, ht.run_eq (hr.mono (by omega)), hpins.latchO, hpins.sclkO, hpins.sdataO⟩
  · obtain ⟨t, ht, hlatched⟩ := exists_frameLatched hst
    exact ⟨t, ht.run_eq hr, hlatched.latchO, hlatched.sclkO, hlatched.sdataO⟩

/-- Settles O43: the outputs stay through the dwell, the CHECK of a timed repeat and the next frame up to its latch. -/
theorem digitIsHeldUntilNextLatch : Obligations.DigitIsHeldUntilNextLatch := by
  unfold Obligations.DigitIsHeldUntilNextLatch
  intro s hs hst hcnt hr
  obtain ⟨hcfg, -⟩ := hs
  obtain ⟨-, -, hdw, -⟩ := s.cfg.wf_iff.mp hcfg
  refine ⟨fun k hk => ?_, fun hm hdig => ?_⟩
  · exact (keepsOutFor_of_firstDwell hst hcnt hdw).exists_run (hr.mono (by omega)) (by omega)
  · exact (keepsOutFor_of_firstDwell_of_timed hst hcnt hdw hdig.ge hm).exists_run (hr.mono (by omega)) le_rfl

/-- Settles O44: the accept cycle leads to a CHECK with `dur = 0`, which sends the clear frame; the outputs stay until
that frame is latched. -/
theorem blankDarkensTheDisplay : Obligations.BlankDarkensTheDisplay := by
  unfold Obligations.BlankDarkensTheDisplay
  intro s i hi hst hv hcmd hr
  obtain rfl : .showFor 0 = i := List.singleton_inj.mp hi
  have hd : decode s.port.cmd = .ok (.showFor 0) := by rw [hcmd, decodeOfEncodeIsIdentity _ (by decide)]
  let c := s.startTimed 0
  have hstart (k : Nat) : run (k + 1) s = run k c := run_succ (step_of_showFor (hr 0 (by decide)) hst hv hd)
  have hquiet : c.noResetFor 35 := State.noResetFor.tail hr rfl
  refine ⟨fun k hk => ?_, ?_⟩
  · cases k with
    | zero => exact ⟨s, rfl, rfl⟩
    | succ k =>
      rw [hstart]
      exact (keepsOutFor_of_check (s := c) rfl).exists_run (hquiet.mono (by decide)) (Nat.le_of_succ_le_succ hk)
  · have hdur : c.dur ≤ c.elapsed + c.cfg.passPeriod := by simp [c, State.startTimed, scaledDuration]
    obtain ⟨t, ht, hend⟩ := exists_end_of_check (c := c) rfl hdur
    obtain ⟨-, hfb, -⟩ := ht.frame
    exact ⟨t, (hstart 35).trans (ht.run_eq hquiet), hend.st, hend.out, State.dark_of_out_eq_zero hend.out, hfb⟩

end Sys2Proof.Proofs
end

section
/-! SHOW: the digits in order, each latched and held, and the clear frame at the end (42_driver.md R120, R131). -/

namespace Sys2Proof.Machine

/-- `i` digit frames after LATCH_LO of digit 0 comes LATCH_LO of digit `i`. -/
theorem exists_latchLo_of_digit {f : State} (hst : f.st = .latchLo) (hclr : f.clr = false) (hdig : f.dig = 0#3)
    (hdw : 1 ≤ f.cfg.dwellCycles) {i : Nat} (hi : i < f.cfg.digitCount) :
    ∃ t, DriverRun (i * f.cfg.frameCycles) f t ∧ t.st = .latchLo ∧ t.dig.toNat = i ∧ t.clr = false := by
  induction i with
  | zero => exact ⟨f, by simpa using DriverRun.refl f, hst, by simp [hdig], hclr⟩
  | succ i ih =>
    obtain ⟨s, hs, hsst, hsdig, hsclr⟩ := ih (Nat.lt_of_succ_lt hi)
    obtain ⟨t, ht, htst, htdig, htclr⟩ := exists_nextDigit hsst hsclr (by rwa [hs.cfg_eq]) (by rwa [hs.cfg_eq, hsdig])
    rw [hs.cfg_eq] at ht
    exact ⟨t, (hs.trans ht).of_length_eq (Nat.succ_mul i _), htst, htdig.trans (congrArg (· + 1) hsdig), htclr⟩

/-- The last digit frame of a SHOW leads to the clear frame (R128). -/
theorem exists_clear_of_lastDigit {f : State} (hst : f.st = .latchLo) (hclr : f.clr = false) (hm : f.mode = .once)
    (hdw : 1 ≤ f.cfg.dwellCycles) (hdig : f.cfg.digitCount ≤ f.dig.toNat + 1) :
    ∃ t, DriverRun f.cfg.frameCycles f t ∧ t.st = .latchLo ∧ t.clr = true := by
  obtain ⟨s, hs, hsst, hscnt, hsdig, -⟩ := exists_digitFrame hst hclr hdw
  have hlast : s.cfg.digitCount ≤ s.dig.toNat + 1 := by rwa [hs.cfg_eq, hsdig]
  have honce : s.mode = .once := (hs.mode_of_busy (by simp [hsst])).trans hm
  have hlen : f.cfg.frameCycles = 33 + f.cfg.dwellCycles + 1 := by rw [Config.frameCycles]; omega
  have hrun := hs.trans (.single (.dwellClear hsst hscnt.le hlast honce))
  exact ⟨_, hrun.of_length_eq hlen, rfl, rfl⟩

/-- The whole single pass of a SHOW, from its first LATCH_LO to its end (R131). -/
theorem exists_end_of_show {f : State} (hst : f.st = .latchLo) (hclr : f.clr = false) (hdig : f.dig = 0#3)
    (hm : f.mode = .once) (hdw : 1 ≤ f.cfg.dwellCycles) :
    ∃ t, DriverRun f.cfg.showCycles f t ∧ ShowEnded t := by
  have hC := f.cfg.digitCount_pos
  obtain ⟨s, hs, hsst, hsdig, hsclr⟩ := exists_latchLo_of_digit hst hclr hdig hdw (Nat.sub_one_lt_of_lt hC)
  have hsm : s.mode = .once := (hs.mode_of_busy (by simp [hsst])).trans hm
  obtain ⟨c, hc, hcst, hcclr⟩ :=
    exists_clear_of_lastDigit hsst hsclr hsm (by rwa [hs.cfg_eq]) (by rw [hs.cfg_eq, hsdig]; omega)
  obtain ⟨t, ht, hend⟩ := exists_clearFrame hcst hcclr
  rw [hs.cfg_eq] at hc
  have hlen : f.cfg.showCycles = (f.cfg.digitCount - 1) * f.cfg.frameCycles + f.cfg.frameCycles + 34 := by
    rw [← Nat.succ_mul, Nat.succ_eq_add_one, Nat.sub_add_cancel hC, Nat.add_comm, Config.showCycles]
  exact ⟨t, ((hs.trans hc).trans ht).of_length_eq hlen, hend⟩

/-- A digit's frame is on the outputs from its latch, for a whole digit frame (70_reset_and_hazards.md R194). -/
theorem exists_holdsFrame_of_digit {f : State} (hst : f.st = .latchLo) (hclr : f.clr = false)
    (hdw : 1 ≤ f.cfg.dwellCycles) {k : Nat} (hk : k < f.cfg.frameCycles) :
    ∃ t, DriverRun (34 + k) f t ∧ holdsFrame f.cfg t.out (f.digitWord f.dig) := by
  obtain ⟨s, hs, hsst, hscnt, -, -⟩ := exists_firstDwell hst hclr
  obtain ⟨s', hs', hlatched⟩ := exists_frameLatched hst
  obtain rfl := hs.unique hs'
  have hkeep := keepsOutFor_of_firstDwell hsst (by rw [hscnt, hs.cfg_eq]) (by rwa [hs.cfg_eq])
  rw [hs.cfg_eq] at hkeep
  rw [Config.frameCycles] at hk
  obtain ⟨t, ht, htout⟩ := hkeep k (by omega)
  have hword : f.nextWord = f.digitWord f.dig := if_neg (by simp [hclr])
  refine ⟨t, hs.trans ht, ?_⟩
  rw [htout, hlatched.out, ← hword]
  exact hlatched.stage

/-- The state after the accept cycle of a SHOW: LATCH_LO of digit 0 (R120). -/
def State.startOnce (s : State) : State :=
  { s.nextCycle with mode := .once, clr := false, dig := 0#3, st := .latchLo }

theorem step_of_show {s : State} (hr : s.port.rst = false) (hi : s.st = .idle) (hv : s.port.cmdValid = true)
    (hd : decode s.port.cmd = .ok .showOnce) : step s = .next s.startOnce :=
  step_of_command hr hi hv hd

end Sys2Proof.Machine

namespace Sys2Proof.Proofs
open Sys2Proof.Machine

/-- Settles O40: digit frame after digit frame, then the clear frame; every state of that run but its last is busy. -/
theorem showTakesItsCyclesAndEndsDark : Obligations.ShowTakesItsCyclesAndEndsDark := by
  unfold Obligations.ShowTakesItsCyclesAndEndsDark
  intro s hi hv hd hdw hr
  let f := s.startOnce
  have hstart (k : Nat) : run (1 + k) s = run k f := run_add (run_succ (step_of_show (hr 0 (by omega)) hi hv hd))
  have hshow : f.cfg.showCycles = 34 + s.cfg.digitCount * (34 + s.cfg.dwellCycles) := rfl
  have hlen : 35 + s.cfg.digitCount * (34 + s.cfg.dwellCycles) = 1 + f.cfg.showCycles := by omega
  rw [hlen] at hr ⊢
  rw [← hshow]
  have hquiet : f.noResetFor f.cfg.showCycles := State.noResetFor.tail (hr.mono (Nat.add_comm _ _).le) rfl
  obtain ⟨t, ht, hend⟩ := exists_end_of_show (f := f) rfl rfl rfl rfl hdw
  refine ⟨fun k hk1 hk => ?_, ?_⟩
  · obtain ⟨j, rfl⟩ := Nat.exists_eq_add_of_le hk1
    obtain ⟨u, hu, hbusy⟩ := ht.exists_busy_of_lt (k := j) (by omega)
    exact ⟨u, (hstart j).trans (hu.run_eq (hquiet.mono (by omega))), hbusy⟩
  · obtain ⟨-, hfb, -⟩ := ht.frame
    exact ⟨t, (hstart _).trans (ht.run_eq hquiet), hend.st, hend.mode, hend.latchO, hend.sclkO, hend.sdataO, hend.out,
      hfb⟩

/-- Settles O41: LATCH_LO of digit `i` comes `i` digit frames after the accept cycle, its frame is on the outputs from
cycle 34 of its own frame up to the next latch, and a digit's frame lights that digit alone (O51). -/
theorem showLightsEachDigitInTurn : Obligations.ShowLightsEachDigitInTurn := by
  unfold Obligations.ShowLightsEachDigitInTurn
  intro s hi hv hd hdw hr i k hiC hk
  let f := s.startOnce
  obtain ⟨c, hc, hcst, hcdig, hcclr⟩ := exists_latchLo_of_digit (f := f) rfl rfl rfl hdw hiC
  have hccfg : c.cfg = s.cfg := hc.cfg_eq
  obtain ⟨-, hcfb, -⟩ := hc.frame
  obtain ⟨t, ht, hout⟩ := exists_holdsFrame_of_digit hcst hcclr (by rwa [hccfg]) (k := k) (by rwa [hccfg])
  have hrun : DriverRun (i.val * (34 + s.cfg.dwellCycles) + (34 + k)) f t := hc.trans ht
  have htcfg : t.cfg = s.cfg := hrun.cfg_eq
  have hword : c.digitWord c.dig = frameWord s.cfg (indexByte s.cfg i.val) s.fb[i] := by
    simp only [State.digitWord, State.fbAt, hccfg, hcfb, hcdig]
    rfl
  rw [hccfg, hword] at hout
  have hnext : (i.val + 1) * (34 + s.cfg.dwellCycles) ≤ s.cfg.digitCount * (34 + s.cfg.dwellCycles) :=
    Nat.mul_le_mul_right _ hiC
  rw [Nat.succ_mul] at hnext
  have hlen : 35 + i.val * (34 + s.cfg.dwellCycles) + k = i.val * (34 + s.cfg.dwellCycles) + (34 + k) + 1 := by omega
  have hquiet : f.noResetFor (i.val * (34 + s.cfg.dwellCycles) + (34 + k)) :=
    State.noResetFor.tail (hr.mono (by omega)) rfl
  refine ⟨t, ?_, fun j seg hj => ?_⟩
  · rw [hlen, run_succ (step_of_show (hr 0 (by omega)) hi hv hd)]
    exact hrun.run_eq hquiet
  · rw [State.lit, htcfg, lit_of_holdsFrame hj seg.isLt hout]
    simp only [Fin.ext_iff]

/-- Settles O8: the accept cycle by definition. -/
theorem showStartsSinglePass : Obligations.ShowStartsSinglePass :=
  fun _ => rfl

end Sys2Proof.Proofs
end

section
/-! One clock cycle: what it accepts and refuses, what it leaves alone, and what it cannot see (41_framebuffer.md R100,
R105; 42_driver.md R126, R130; 20_memory.md R43). -/

namespace Sys2Proof.Machine

/-! ### Commands -/

/-- A write of the frame buffer depends only on what it does at the used positions. -/
theorem State.mapFb_congr {s : State} {f g : Fin 8 → Byte → Byte}
    (h : ∀ i : Fin 8, i.val < s.cfg.digitCount → f i = g i) : s.mapFb f = s.mapFb g := by
  have hfb : (s.mapFb f).fb = (s.mapFb g).fb := Vector.ext fun i hi => by
    have hentry := s.mapFb_getElem f ⟨i, hi⟩
    have hentry' := s.mapFb_getElem g ⟨i, hi⟩
    simp only [Fin.getElem_fin] at hentry hentry'
    rw [hentry, hentry']
    split
    · rw [h ⟨i, hi⟩ ‹_›]
    · rfl
  calc s.mapFb f = { s with fb := (s.mapFb f).fb } := rfl
    _ = s.mapFb g := by rw [hfb]; rfl

/-! ### The four kinds of cycle -/

theorem State.accepts_iff (s : State) :
    s.accepts = true ↔ s.port.cmdValid = true ∧ s.st = .idle ∧ s.port.rst = false := by
  simp [State.accepts, State.cmdReady]

/-- A cycle that answers no next state accepts a reserved word, and is refused for it. -/
theorem step_cases_of_not_next (s : State) :
    (∃ t, step s = .next t) ∨
      (s.accepts = true ∧ (∃ e, decode s.port.cmd = .error e) ∧ step s = .refused .reservedEncoding) := by
  rw [State.accepts_iff]
  cases hr : s.port.rst with
  | true => exact .inl ⟨_, step_of_reset hr⟩
  | false =>
    by_cases hi : s.st = .idle
    · cases hv : s.port.cmdValid with
      | true =>
        cases hd : decode s.port.cmd with
        | ok i =>
          obtain ⟨t, ht⟩ := exec_completes i s.nextCycle
          exact .inl ⟨t, (step_of_command hr hi hv hd).trans ht⟩
        | error e => exact .inr ⟨⟨rfl, hi, rfl⟩, ⟨e, rfl⟩, step_of_reserved hr hi hv hd⟩
      | false => exact .inl ⟨_, step_of_quiet hr hi hv⟩
    · exact .inl ⟨_, step_of_busy hr hi⟩

/-- No cycle changes a parameter. -/
theorem StepCase.cfg_eq {s t : State} (h : StepCase s t) : t.cfg = s.cfg := by
  cases h with
  | reset | quiet => rfl
  | command _ _ _ _ _ _ he => exact (exec_frame he).1
  | drive _ _ u hu => exact hu.frame.1

/-- A busy block's frame buffer changes only by reset. -/
theorem StepCase.fb_eq_of_busy {s t : State} (h : StepCase s t) (hb : s.st ≠ .idle) (hr : s.port.rst = false) :
    t.fb = s.fb := by
  cases h with
  | reset hr' => exact absurd (hr.symm.trans hr') nofun
  | command _ _ _ hi => exact absurd hi hb
  | quiet => rfl
  | drive _ _ u hu =>
    obtain ⟨-, hfb, -⟩ := hu.frame
    exact hfb

/-- Of the commands only LOAD, PTSET and PTCLR write the frame buffer. -/
theorem mnemonic_of_exec_fb_ne {i : Instr} {s t : State} (h : exec i s = .next t) (hne : t.fb ≠ s.fb) :
    i.mnemonic = "LOAD" ∨ i.mnemonic = "PTSET" ∨ i.mnemonic = "PTCLR" := by
  cases i with
  | load => exact .inl rfl
  | ptset => exact .inr (.inl rfl)
  | ptclr => exact .inr (.inr rfl)
  | nop | showOnce | showFor => cases h; exact absurd rfl hne

/-! ### The pins -/

/-- Only a cycle that drives the shift clock low moves another pin. -/
theorem DriveCase.sclkO_low_or_pins_eq {s u : State} (h : DriveCase s u) :
    u.sclkO = false ∨ (u.latchO = s.latchO ∧ u.sdataO = s.sdataO) := by
  cases h with
  | latchLo | shiftA | latchHiClear | latchHiDigit => exact .inl rfl
  | _ => exact .inr ⟨rfl, rfl⟩

/-- The pins of an idle block change only by reset. -/
theorem StepCase.pins_eq_of_idle {s t : State} (h : StepCase s t) (hi : s.st = .idle) (hr : s.port.rst = false) :
    t.latchO = s.latchO ∧ t.sclkO = s.sclkO ∧ t.sdataO = s.sdataO ∧ t.out = s.out := by
  cases h with
  | reset hr' => exact absurd (hr.symm.trans hr') nofun
  | command _ _ _ _ _ _ he =>
    obtain ⟨-, -, -, -, hlatch, hsclk, hsdata, -, hout, -, -⟩ := exec_frame he
    exact ⟨hlatch, hsclk, hsdata, hout⟩
  | quiet => exact ⟨rfl, rfl, rfl, rfl⟩
  | drive _ hb => exact absurd hi hb

theorem StepCase.sclkO_low_or_pins_eq {s t : State} (h : StepCase s t) :
    t.sclkO = false ∨ (t.latchO = s.latchO ∧ t.sdataO = s.sdataO) := by
  cases h with
  | reset => exact .inl rfl
  | command _ _ _ _ _ _ he =>
    obtain ⟨-, -, -, -, hlatch, -, hsdata, -⟩ := exec_frame he
    exact .inr ⟨hlatch, hsdata⟩
  | quiet => exact .inr ⟨rfl, rfl⟩
  | drive _ _ u hu => exact hu.sclkO_low_or_pins_eq

/-- While the shift clock is high in a legal state, the latch pin is low. -/
theorem State.pinsLegal.latchO_low {s : State} (h : s.pinsLegal) (hs : s.sclkO = true) : s.latchO = false := by
  obtain ⟨hlow, -, hsclk, -⟩ := h
  have hst : s.st = .latchHi ∨ s.st = .shiftA ∧ s.bit ≠ 0#4 := by
    simpa [beq_eq_decide] using hsclk.symm.trans hs
  rcases hst with hst | ⟨hst, -⟩
  · exact hlow (.inr (.inr hst))
  · exact hlow (.inl hst)

/-- Driving the latch pin high transfers the stages unless it was high already. -/
theorem drivePins_latchHi (s : State) (d : Bool) :
    s.drivePins true false d =
      { s with latchO := true, sclkO := false, sdataO := d, out := if s.latchO = true then s.out else s.stage } := by
  cases h : s.latchO <;> simp [State.drivePins, h]

/-! ### What a cycle cannot see -/

/-- The state with other contents in the chain. -/
def State.withChain (s : State) (stage out : FrameWord) : State := { s with stage := stage, out := out }

/-- A driver case goes the same way with other contents in the chain. -/
theorem DriveCase.withChain {s u : State} (h : DriveCase s u) (stage out : FrameWord) :
    ∃ stage' out', DriveCase (s.withChain stage out) (u.withChain stage' out') := by
  cases h with
  | checkPass hst h => exact ⟨_, _, .checkPass hst h⟩
  | checkClear hst h => exact ⟨_, _, .checkClear hst h⟩
  | latchLo hst => exact ⟨_, _, .latchLo hst⟩
  | shiftA hst => exact ⟨_, _, .shiftA hst⟩
  | shiftBLast hst h => exact ⟨_, _, .shiftBLast hst h⟩
  | shiftBMore hst h => exact ⟨_, _, .shiftBMore hst h⟩
  | latchHiClear hst h => exact ⟨_, _, .latchHiClear hst h⟩
  | latchHiDigit hst h => exact ⟨_, _, .latchHiDigit hst h⟩
  | dwellOn hst h => exact ⟨_, _, .dwellOn hst h⟩
  | dwellNext hst h hd => exact ⟨_, _, .dwellNext hst h hd⟩
  | dwellClear hst h hd hm => exact ⟨_, _, .dwellClear hst h hd hm⟩
  | dwellCheck hst h hd hm => exact ⟨_, _, .dwellCheck hst h hd hm⟩

theorem modifyEntry_withChain (s : State) (idx : Nat) (f : Byte → Byte) (stage out : FrameWord) :
    (s.withChain stage out).modifyEntry idx f = (s.modifyEntry idx f).withChain stage out := by
  rcases Nat.lt_or_ge idx s.cfg.digitCount with h | h
  · rw [State.modifyEntry_of_lt (s := s.withChain stage out) h, State.modifyEntry_of_lt h]
    rfl
  · rw [State.modifyEntry_of_le (s := s.withChain stage out) h, State.modifyEntry_of_le h]

/-- A command neither sees nor touches the chain. -/
theorem exec_withChain {i : Instr} {s t : State} (h : exec i s = .next t) (stage out : FrameWord) :
    exec i (s.withChain stage out) = .next (t.withChain stage out) := by
  cases i with
  | ptset | ptclr =>
    cases h
    exact congrArg _ (modifyEntry_withChain _ _ _ _ _)
  | nop | load | showOnce | showFor => cases h; rfl

/-- A cycle of the same kind with other contents in the chain differs in the chain alone. -/
theorem StepCase.withChain {s t : State} (h : StepCase s t) (stage out : FrameWord) :
    ∃ stage' out', step (s.withChain stage out) = .next (t.withChain stage' out') := by
  cases h with
  | reset hr => exact ⟨_, _, step_of_reset (s := s.withChain stage out) hr⟩
  | command i _ hr hi hv hd he =>
    have hstep := step_of_command (s := s.withChain stage out) hr hi hv hd
    exact ⟨_, _, hstep.trans (exec_withChain he stage out)⟩
  | quiet hr hi hv => exact ⟨_, _, step_of_quiet (s := s.withChain stage out) hr hi hv⟩
  | drive hr hb u hu =>
    obtain ⟨stage', out', hu'⟩ := hu.withChain stage out
    exact ⟨stage', out', step_of_driveCase (s := s.withChain stage out) hr hu'⟩

end Sys2Proof.Machine

namespace Sys2Proof.Proofs
open Sys2Proof.Machine

/-- Settles O3: the operands that differ reach no used entry. -/
theorem loadIgnoresUnusedOperands : Obligations.LoadIgnoresUnusedOperands := by
  unfold Obligations.LoadIgnoresUnusedOperands
  intro s pv pi pi' chars chars' hchars hpoint
  rw [exec_load, exec_load]
  refine congrArg _ (State.mapFb_congr fun i hi => ?_)
  have hsame : (pv = true ∧ pi = i.val) ↔ (pv = true ∧ pi' = i.val) := by
    rcases hpoint with rfl | rfl | ⟨hpi, hpi'⟩
    · rfl
    · simp
    · omega
  rw [hchars i hi]
  simp only [loadEntry_eq, hsame]

/-- Settles O6: each is a read-modify-write of entry IDX by an operation that writes bit 0 alone. -/
theorem pointCommandsWriteOnlyThePointBit : Obligations.PointCommandsWriteOnlyThePointBit := by
  unfold Obligations.PointCommandsWriteOnlyThePointBit
  have hwrite (s : State) (idx : Nat) (f : Byte → Byte)
      (hf : ∀ (b : Byte) (k : Fin 8), k ≠ 0 → (f b).getLsbD k.val = b.getLsbD k.val) (j k : Fin 8)
      (h : j.val ≠ idx ∨ k ≠ 0) : (s.modifyEntry idx f).fb[j].getLsbD k.val = s.fb[j].getLsbD k.val := by
    rw [modifyEntry_getElem]
    split
    next hj => exact hf _ k (h.resolve_left (not_not_intro hj.1))
    next => rfl
  rintro s idx i (rfl | rfl)
  · exact ⟨_, exec_ptset idx s, hwrite s idx _ fun b k hk => ((pointBitLevels s.cfg b).1 k hk).1⟩
  · exact ⟨_, exec_ptclr idx s, hwrite s idx _ fun b k hk => ((pointBitLevels s.cfg b).1 k hk).2⟩

/-- Settles O7: the last clauses of O2, O4 and O5. -/
theorem frameBufferCommandsAreIdempotent : Obligations.FrameBufferCommandsAreIdempotent := by
  unfold Obligations.FrameBufferCommandsAreIdempotent
  intro s i hi
  cases i with
  | load pv pi chars =>
    obtain ⟨-, t, ht, -, -, -, hagain⟩ := loadReplacesUsedEntries s pv pi chars
    exact ⟨t, ht, hagain⟩
  | ptset idx =>
    obtain ⟨-, t, ht, -, -, -, hagain⟩ := ptsetSetsOnePoint s idx
    exact ⟨t, ht, hagain⟩
  | ptclr idx =>
    obtain ⟨-, t, ht, -, -, -, hagain⟩ := ptclrClearsOnePoint s idx
    exact ⟨t, ht, hagain⟩
  | nop | showOnce | showFor => simp [Instr.mnemonic] at hi

/-- Settles O17: the command branch of a cycle. -/
theorem stepRunsDecodedCommand : Obligations.StepRunsDecodedCommand :=
  fun _ _ hr hi hv hd => step_of_command hr hi hv hd

/-- Settles O23: the branch of a cycle that has nothing to do. -/
theorem idleCycleChangesNothing : Obligations.IdleCycleChangesNothing :=
  fun _ hr hi hv => step_of_quiet hr hi hv

/-- Settles O21: the pins fall or stay low, so the chain sees no rise. -/
theorem resetCycleKeepsChain : Obligations.ResetCycleKeepsChain := by
  unfold Obligations.ResetCycleKeepsChain
  intro s hr
  obtain ⟨hstage, hout⟩ := applyReset_chain s.nextCycle
  exact ⟨_, step_of_reset hr, hstage, hout⟩

/-- Settles O22: field by field; the frame buffer is blank as after any reset (O20). -/
theorem constructedStateHasResetValues : Obligations.ConstructedStateHasResetValues := by
  unfold Obligations.ConstructedStateHasResetValues
  intro cfg inputs
  refine ⟨rfl, rfl, rfl, rfl, rfl, rfl, rfl, rfl, rfl, rfl, rfl, rfl, fun hpolicy i => ?_, State.cmdReady_of_idle rfl⟩
  have hblank : (State.resetWith cfg inputs).fb[i] = cfg.blank := Config.getElem_resetFb_of_blank hpolicy 0 i
  rw [hblank]
  cases hpol : cfg.polarity with
  | cc => exact Config.blank_cc hpol
  | ca => exact Config.blank_ca hpol

/-- Settles O19: a cycle that accepts a reserved word is refused, and every other kind of cycle answers a state. -/
theorem everyOtherCycleCompletes : Obligations.EveryOtherCycleCompletes := by
  unfold Obligations.EveryOtherCycleCompletes
  intro s
  constructor
  · intro hno
    rcases step_cases_of_not_next s with hnext | ⟨hacc, herr, -⟩
    · exact hnext
    · exact absurd ⟨hacc, herr⟩ hno
  · rintro ⟨t, ht⟩ ⟨hacc, e, hd⟩
    obtain ⟨hv, hi, hr⟩ := s.accepts_iff.mp hacc
    rw [step_of_reserved hr hi hv hd] at ht
    cases ht

/-- Settles O27: the four kinds of cycle. -/
theorem parametersNeverChange : Obligations.ParametersNeverChange :=
  fun _ _ h => (step_cases h).cfg_eq

/-- Settles O28: the driver's cases leave the frame buffer alone. -/
theorem frameBufferFrozenWhileBusy : Obligations.FrameBufferFrozenWhileBusy :=
  fun _ _ h hb hr => (step_cases h).fb_eq_of_busy hb hr

/-- Settles O30: a busy block writes no entry (O28), an idle one without a command neither. -/
theorem onlyThreeCommandsWriteFrameBuffer : Obligations.OnlyThreeCommandsWriteFrameBuffer := by
  unfold Obligations.OnlyThreeCommandsWriteFrameBuffer
  intro s t h hr hne
  cases step_cases h with
  | reset hr' => exact absurd (hr.symm.trans hr') nofun
  | command i _ _ hi hv hd he => exact ⟨s.accepts_iff.mpr ⟨hv, hi, hr⟩, i, hd, mnemonic_of_exec_fb_ne he hne⟩
  | quiet => exact absurd rfl hne
  | drive _ _ u hu =>
    obtain ⟨-, hfb, -⟩ := hu.frame
    exact absurd hfb hne

/-- Settles O31: every command keeps the entries from C on, and the driver keeps them all. -/
theorem unusedEntriesKeepTheirValue : Obligations.UnusedEntriesKeepTheirValue := by
  unfold Obligations.UnusedEntriesKeepTheirValue
  intro s t h hr j hj
  cases step_cases h with
  | reset hr' => exact absurd (hr.symm.trans hr') nofun
  | command i _ _ _ _ _ he =>
    obtain ⟨fb, rfl, hkeep⟩ | ⟨-, rfl⟩ | ⟨d, -, rfl⟩ := exec_cases he
    · exact hkeep j hj
    · rfl
    · rfl
  | quiet => rfl
  | drive _ _ u hu =>
    obtain ⟨-, hfb, -⟩ := hu.frame
    simp only [hfb]
    rfl

/-- Settles O32: `nextElapsed` in a busy cycle, SHOWFOR's 0 in its accept cycle, and no other write. -/
theorem elapsedCountsBusyTimedCycles : Obligations.ElapsedCountsBusyTimedCycles := by
  unfold Obligations.ElapsedCountsBusyTimedCycles
  intro s t h hr
  cases step_cases h with
  | reset hr' => exact absurd (hr.symm.trans hr') nofun
  | command i _ _ hi hv hd he =>
    refine ⟨fun hb => absurd hi hb, fun hb => absurd hi hb, fun _ => ?_, fun _ hno => ?_⟩
    · rintro ⟨d, -, hd'⟩
      obtain rfl : i = .showFor d := Except.ok.inj (hd.symm.trans hd')
      cases he
      rfl
    · obtain ⟨fb, rfl, -⟩ | ⟨-, rfl⟩ | ⟨d, rfl, -⟩ := exec_cases he
      · rfl
      · rfl
      · exact absurd ⟨d, hv, hd⟩ hno
  | quiet _ hi hv =>
    refine ⟨fun hb => absurd hi hb, fun hb => absurd hi hb, fun _ => ?_, fun _ _ => rfl⟩
    rintro ⟨d, hv', -⟩
    exact absurd (hv.symm.trans hv') nofun
  | drive _ hb u hu =>
    exact ⟨fun _ hm => if_pos hm, fun _ hm => if_neg hm, fun hi => absurd hi hb, fun hi => absurd hi hb⟩

/-- Settles O34: in every cycle the outputs are those of a pin write, which transfers them on a rise of `latch_o` alone;
no cycle raises both clocks. -/
theorem chainLatchesOnLatchRise : Obligations.ChainLatchesOnLatchRise := by
  unfold Obligations.ChainLatchesOnLatchRise
  intro s t h
  obtain ⟨hstage, hout⟩ := (step_cases h).pins
  obtain ⟨-, hnoshift, hlatch, hkeep⟩ := drivePins_chain s t.latchO t.sclkO t.sdataO
  refine ⟨fun hs ht => ⟨hout.trans (hlatch hs ht), hstage.trans (hnoshift ?_)⟩, fun hno => hout.trans (hkeep hno)⟩
  rintro ⟨-, hsclk⟩
  rcases (step_cases h).sclkO_low_or_pins_eq with hlow | ⟨hlatch, -⟩
  · exact absurd (hsclk.symm.trans hlow) nofun
  · exact absurd (ht.symm.trans (hlatch.trans hs)) nofun

/-- Settles O35: a cycle that raises the shift clock moves no other pin, the pins of an idle block stay, and the latch pin
is low wherever the shift clock is high. -/
theorem pinGuarantees : Obligations.PinGuarantees := by
  unfold Obligations.PinGuarantees
  intro s t hs h
  obtain ⟨-, -, -, -, -, hpins, -⟩ := hs
  have hcase := step_cases h
  have hstable (hrise : t.sclkO = true) : t.latchO = s.latchO ∧ t.sdataO = s.sdataO :=
    hcase.sclkO_low_or_pins_eq.resolve_left (by simp [hrise])
  refine ⟨fun _ hrise => (hstable hrise).2, ?_, fun hi hr => ?_, ?_⟩
  · rintro ⟨-, hrise, hlow, hhigh⟩
    exact absurd (hhigh.symm.trans ((hstable hrise).1.trans hlow)) nofun
  · obtain ⟨hlatch, hsclk, hsdata, -⟩ := hcase.pins_eq_of_idle hi hr
    exact ⟨hlatch, hsclk, hsdata⟩
  · rintro ⟨hsclk, hlatch, -⟩
    exact absurd (hlatch.symm.trans (hpins.latchO_low hsclk)) nofun

/-- Settles O54: the outputs are zero by the invariant, and an idle cycle without a reset keeps them and the pins. -/
theorem displayStaysDarkInIdle : Obligations.DisplayStaysDarkInIdle := by
  unfold Obligations.DisplayStaysDarkInIdle
  intro s t hs hi hlatch hr h
  obtain ⟨-, -, -, -, -, -, -, ⟨-, -, hdark⟩, -⟩ := hs
  have hout := hdark hi hlatch
  obtain ⟨htlatch, -, -, htout⟩ := (step_cases h).pins_eq_of_idle hi hr
  exact ⟨State.dark_of_out_eq_zero hout, State.dark_of_out_eq_zero (htout.trans hout), htlatch.trans hlatch⟩

/-- Settles O24: a reset and a driver step look at nothing on the command port. -/
theorem busyBlockIgnoresCommandPort : Obligations.BusyBlockIgnoresCommandPort := by
  unfold Obligations.BusyBlockIgnoresCommandPort
  intro s p q later hpq hready
  cases hr : p.rst with
  | true => exact ⟨_, step_of_reset hr, step_of_reset (hpq ▸ hr)⟩
  | false =>
    have hb : s.st ≠ .idle := by
      intro hi
      have := State.cmdReady_of_idle (s := { s with inputs := p :: later }) hi hr
      exact absurd (hready.symm.trans this) nofun
    exact ⟨_, step_of_busy hr hb, step_of_busy (hpq ▸ hr) hb⟩

/-- Settles O29: each kind of cycle goes the same way whatever the chain holds, and the word that is refused is on the
port. -/
theorem chainNeverInfluencesTheBlock : Obligations.ChainNeverInfluencesTheBlock := by
  unfold Obligations.ChainNeverInfluencesTheBlock
  intro s stage out
  refine ⟨fun t h => (step_cases h).withChain stage out, fun r h => ?_⟩
  rcases step_cases_of_not_next s with ⟨t, ht⟩ | ⟨hacc, ⟨e, hd⟩, href⟩
  · exact absurd (h.symm.trans ht) nofun
  · obtain ⟨hv, hi, hr⟩ := s.accepts_iff.mp hacc
    rw [← h, href]
    exact step_of_reserved hr hi hv hd

/-- Settles O26: the two cases of CHECK. -/
theorem passStartsExactlyWhenTimeAllows : Obligations.PassStartsExactlyWhenTimeAllows := by
  unfold Obligations.PassStartsExactlyWhenTimeAllows
  intro s hr hst
  rcases Nat.lt_or_ge (s.elapsed + s.cfg.passPeriod) s.dur with htime | htime
  · exact ⟨_, step_of_driveCase hr (.checkPass hst htime), rfl, fun _ => ⟨rfl, rfl⟩,
      fun h => absurd htime (Nat.not_lt.mpr h)⟩
  · exact ⟨_, step_of_driveCase hr (.checkClear hst htime), rfl, fun h => absurd h (Nat.not_lt.mpr htime), fun _ => rfl⟩

/-- Settles O25: the step is the driver's case for the present state, `elapsed` and the ports aside, and the guards say
which case it is. -/
theorem driverStepFollowsStateMachine : Obligations.DriverStepFollowsStateMachine := by
  unfold Obligations.DriverStepFollowsStateMachine
  intro s hr hb
  obtain ⟨-, -, -, -, hin, -⟩ := (driveCase_cases s hb).frame
  refine ⟨_, s.driveCase, step_of_busy hr hb, ?_, ?_⟩
  · rw [State.driverStep, nextCycle_driveCase, State.nextCycle, hin]
    rfl
  refine ⟨fun hst h => (DriveCase.checkPass hst h).driveCase_eq, fun hst h => (DriveCase.checkClear hst h).driveCase_eq,
    fun hst => ?_, fun hst => ?_, fun hst => ?_, fun hst h => ?_, fun hst h => ?_,
    fun hst h => (DriveCase.dwellOn hst h).driveCase_eq, fun hst h hd => (DriveCase.dwellNext hst h hd).driveCase_eq,
    fun hst h hd hm => (DriveCase.dwellClear hst h hd hm).driveCase_eq,
    fun hst h hd hm => (DriveCase.dwellCheck hst h hd hm).driveCase_eq⟩
  · rw [(DriveCase.latchLo hst).driveCase_eq]
    simp [State.drivePins, State.nextWord, State.digitWord, State.fbAt]
  · rw [(DriveCase.shiftA hst).driveCase_eq]
    simp [State.drivePins]
  · obtain ⟨hshift, hkeep, -, -⟩ := drivePins_chain s s.latchO true s.sdataO
    refine ⟨(s.drivePins s.latchO true s.sdataO).stage, ?_, fun hlow => ?_, fun hhigh => hkeep (by simp [hhigh])⟩
    · by_cases hlast : s.bit = 15#4
      · rw [(DriveCase.shiftBLast hst hlast).driveCase_eq]
        simp [State.drivePins, hlast]
      · rw [(DriveCase.shiftBMore hst hlast).driveCase_eq]
        simp [State.drivePins, hlast]
    · rw [hshift hlow rfl]
      exact ⟨shiftIn_zero _ _, fun m hm => shiftIn_succ _ _ (Fin.val_ne_zero_iff.mpr hm) m.isLt⟩
  · rw [(DriveCase.latchHiClear hst h).driveCase_eq, drivePins_latchHi]
    rfl
  · rw [(DriveCase.latchHiDigit hst h).driveCase_eq, drivePins_latchHi]

end Sys2Proof.Proofs
end

section
/-! The character classes of a lawful GLYPH, and the default table's lawfulness (40_rom.md R81, R82, R85). -/

namespace Sys2Proof.Machine

theorem glyphOf_of_default {cfg : Config} (h : cfg.glyph = defaultGlyphTable) (ch : Byte) :
    cfg.glyphOf ch = defaultGlyph ch := by
  simp [Config.glyphOf, h, defaultGlyphTable]

theorem getLsbD_defaultGlyph_zero (ch : Byte) : (defaultGlyph ch).getLsbD 0 = false := by
  revert ch
  decide +kernel

theorem defaultGlyph_of_other {ch : Byte} (h : charClass ch = .other) : defaultGlyph ch = 0x00#8 := by
  simp [defaultGlyph, h]

/-- Both codes of a letter are in its class. -/
theorem charClass_letter {k : Nat} (hk : k < 26) :
    charClass (BitVec.ofNat 8 (0x41 + k)) = .letter k ∧ charClass (BitVec.ofNat 8 (0x61 + k)) = .letter k := by
  have hupper : (BitVec.ofNat 8 (0x41 + k)).toNat = 0x41 + k := Nat.mod_eq_of_lt (by omega)
  have hlower : (BitVec.ofNat 8 (0x61 + k)).toNat = 0x61 + k := Nat.mod_eq_of_lt (by omega)
  constructor
  · rw [charClass, hupper, if_neg (by omega), if_pos (by omega), Nat.add_sub_cancel_left]
  · rw [charClass, hlower, if_neg (by omega), if_neg (by omega), if_pos (by omega), Nat.add_sub_cancel_left]

end Sys2Proof.Machine

namespace Sys2Proof.Proofs
open Sys2Proof.Machine

/-- Settles O48: GLYPH gives the pattern of a code of no class, and the two codes of a letter lie 0x20 apart. -/
theorem romFollowsCharacterClasses : Obligations.RomFollowsCharacterClasses := by
  unfold Obligations.RomFollowsCharacterClasses
  intro cfg ch h
  refine ⟨fun hother => ?_, fun hlo hhi => ?_⟩
  · rw [Config.rom, Config.glyphByClass_other h hother]
  · have hupper : ch = BitVec.ofNat 8 (0x41 + (ch.toNat - 0x41)) := by
      rw [Nat.add_sub_cancel' hlo, BitVec.ofNat_toNat, BitVec.setWidth_eq]
    have hlower : ch + 0x20#8 = BitVec.ofNat 8 (0x61 + (ch.toNat - 0x41)) := by
      bv_omega
    rw [Config.rom, Config.rom, hlower, ← Config.glyphByClass_letter h (by omega), ← hupper]

/-- Settles O49: the default glyph is given by the class alone, so letters fold; no row of the table has the point. -/
theorem defaultGlyphsAreLawful : Obligations.DefaultGlyphsAreLawful := by
  unfold Obligations.DefaultGlyphsAreLawful
  intro cfg h
  have hglyph := glyphOf_of_default h
  constructor
  · rw [Config.glyphPointFree, List.all_eq_true]
    intro n _
    rw [hglyph, getLsbD_defaultGlyph_zero]
    rfl
  · rw [Config.glyphByClass, Bool.and_eq_true, List.all_eq_true, List.all_eq_true]
    refine ⟨fun k hk => ?_, fun n _ => ?_⟩
    · obtain ⟨hupper, hlower⟩ := charClass_letter (List.mem_range.mp hk)
      rw [hglyph, hglyph, beq_iff_eq, defaultGlyph, defaultGlyph, hupper, hlower]
    · by_cases hother : charClass (BitVec.ofNat 8 n) = .other
      · simp [hglyph, defaultGlyph_of_other hother]
      · simp [hother]

end Sys2Proof.Proofs
end

section
/-! The host's minus sign and its layout of a sequence that fills the display (44_host_set_print.md R152, R155, R159). -/

namespace Sys2Proof.Machine

@[simp] theorem length_formatted (c : Nat) (chars : List Byte) (align : Alignment) :
    (formatted c chars align).length = c := by
  simp [formatted]

/-- Where the window starts `n` characters left of the display and reaches its end, position `p` shows character
`p + n`. -/
theorem formatted_eq_drop {c n : Nat} {chars : List Byte} {align : Alignment} (hleft : windowLeft c chars.length align = -n)
    (hlen : chars.length = c + n) : formatted c chars align = chars.drop n := by
  refine List.ext_getElem (by simp [hlen]) fun p hp hp' => ?_
  have hp : p < c := by simpa using hp
  have hin : windowLeft c chars.length align ≤ p ∧ (p : Int) ≤ windowRight c chars.length align := by
    rw [windowRight, hleft, hlen]
    omega
  have hpos : ((p : Int) - windowLeft c chars.length align).toNat = n + p := by
    rw [hleft]
    omega
  have hidx : n + p < chars.length := by omega
  simp only [formatted, List.getElem_map, List.getElem_range, List.getElem_drop]
  rw [formattedAt, if_pos hin, hpos, List.getD_eq_getElem _ _ hidx]

end Sys2Proof.Machine

namespace Sys2Proof.Proofs
open Sys2Proof.Machine

/-- Settles O55: `countCharacters` is the length of the characters, and a negative number has the minus sign in front of
its magnitude's. -/
theorem negationAddsOneCharacter : Obligations.NegationAddsOneCharacter := by
  unfold Obligations.NegationAddsOneCharacter
  intro v hv
  have hneg : -v < 0 := by omega
  have hpos : ¬ v < 0 := by omega
  rw [← length_integerChars, ← length_integerChars, integerChars, if_pos hneg, integerChars, if_neg hpos,
    Int.natAbs_neg, List.length_cons, Nat.add_comm]

/-- Settles O58: a full sequence has its window at the display's left end under every alignment, and under Right the
window ends where the display does. -/
theorem layoutKeepsFullAndRightmost : Obligations.LayoutKeepsFullAndRightmost := by
  unfold Obligations.LayoutKeepsFullAndRightmost
  intro c chars
  refine ⟨fun hlen a => ?_, fun hlen => formatted_eq_drop ?_ ?_⟩
  · have hleft : windowLeft c chars.length a = -(0 : Nat) := by
      cases a <;> simp [windowLeft, hlen]
    rw [formatted_eq_drop hleft hlen, List.drop_zero]
  · rw [windowLeft]
    omega
  · omega

end Sys2Proof.Proofs
end
